-- ==== Sys2Proof/Word.lean ====
section
/-! DEFINITION. The machine's widths: what the spec treats as bits (10_state.md R20, R23, R24; 30_encoding.md R72). -/

namespace Sys2Proof

/-- An 8-bit value: a general register, a counter, a byte of memory (10_state.md R20, R28). -/
abbrev Byte := BitVec 8

/-- A 16-bit value: an instruction word, the index register, the program counter, a return address
(10_state.md R23, R24, R27; 30_encoding.md R70). -/
abbrev Word := BitVec 16

/-- A 12-bit immediate `NNN` (30_encoding.md R72). -/
abbrev Addr12 := BitVec 12

/-- A 4-bit field of an instruction word (30_encoding.md R72). -/
abbrev Nibble := BitVec 4

/-- The index of a general register, 0 to 15 (10_state.md R20). -/
abbrev RegIdx := Fin 16

/-- `VF`, the flag register (10_state.md R21). -/
abbrev VF : RegIdx := 15

/-- The name of a register whose read can be refused: `0` to `15` for `V[i]`, `16` for `I`
(60_exceptions.md R220, code 8). -/
abbrev RegName := Fin 17

end Sys2Proof
end

