-- ==== Sys2Proof/Config.lean ====
section
/-! DEFINITION. The parameters of the hardware (00_scope.md R8, R9) and its free values.
A `Config` is plain data that a machine carries and never changes; what the spec gives no value for is an opaque constant. -/

namespace Sys2Proof

/-- What a fetch at an odd `pc` does (00_scope.md R9, 20_memory.md R53). -/
inductive OddPcPolicy where
  | fetch
  | fault
  deriving DecidableEq, Repr

/-- Which register SHR and SHL shift (00_scope.md R9, 42_load_and_alu.md R148, R150). -/
inductive ShiftSource where
  | vx
  | vy
  deriving DecidableEq, Repr

/-- What FX1E adds to `I` (00_scope.md R9, 43_index_and_memory.md R172). -/
inductive AddIndexOperand where
  | imm12
  | vx
  deriving DecidableEq, Repr

/-- Whether the registers hold zero after reset or no value until first written (00_scope.md R9, 10_state.md R37, R38). -/
inductive ResetRegisterPolicy where
  | zero
  | unwritten
  deriving DecidableEq, Repr

/-- The five row bytes of one font glyph, top row first (43_index_and_memory.md R174). -/
abbrev Glyph := Vector Byte 5

/-- A font base in the domain of 00_scope.md R9: 0x000 to 0x1B0, so that the 80 font bytes end below 0x200. -/
abbrev FontBase := Fin 433

/-- The parameters of 00_scope.md R8 and R9. `fontBase = none` leaves the font offset open, as the spec does. -/
structure Config where
  oddPcPolicy : OddPcPolicy
  addImmWritesVF : Bool
  shiftSource : ShiftSource
  addIndexOperand : AddIndexOperand
  resetRegisterPolicy : ResetRegisterPolicy
  audioSinkPresent : Bool
  timerDivider : Nat
  fontBase : Option FontBase
  fontData : Vector Glyph 16
  deriving DecidableEq, Repr

/-- The font offset the spec leaves OPEN (decision D24): a free value. -/
opaque Config.freeFontBase : FontBase

/-- The `n`-th byte a random source supplies when the host has lined up none (00_scope.md R14 `draw8()`,
60_exceptions.md R234): a free value. -/
opaque Config.draw8 : Nat → Byte

/-- The `n`-th value of `draw16()` (00_scope.md R14, 43_index_and_memory.md R173): a free value. -/
opaque Config.draw16 : Nat → Word

/-- The conventional font, the spec's default for `FONT_DATA` (43_index_and_memory.md R174; decision D29).
PRESUMED by the spec (general knowledge), log entry 3. -/
def Config.conventionalFont : Vector Glyph 16 :=
  #v[#v[0xF0, 0x90, 0x90, 0x90, 0xF0], #v[0x20, 0x60, 0x20, 0x20, 0x70],
     #v[0xF0, 0x10, 0xF0, 0x80, 0xF0], #v[0xF0, 0x10, 0xF0, 0x10, 0xF0],
     #v[0x90, 0x90, 0xF0, 0x10, 0x10], #v[0xF0, 0x80, 0xF0, 0x10, 0xF0],
     #v[0xF0, 0x80, 0xF0, 0x90, 0xF0], #v[0xF0, 0x10, 0x20, 0x40, 0x40],
     #v[0xF0, 0x90, 0xF0, 0x90, 0xF0], #v[0xF0, 0x90, 0xF0, 0x10, 0xF0],
     #v[0xF0, 0x90, 0xF0, 0x90, 0x90], #v[0xE0, 0x90, 0xE0, 0x90, 0xE0],
     #v[0xF0, 0x80, 0x80, 0x80, 0xF0], #v[0xE0, 0x90, 0x90, 0x90, 0xE0],
     #v[0xF0, 0x80, 0xF0, 0x80, 0xF0], #v[0xF0, 0x80, 0xF0, 0x80, 0x80]]

/-- The spec's default of every parameter (00_scope.md R8, R9; INDEX.md). The audio sink is legal either way (DESIGN CHOICE, log entry 9). -/
def Config.default : Config where
  oddPcPolicy := .fetch
  addImmWritesVF := false
  shiftSource := .vx
  addIndexOperand := .imm12
  resetRegisterPolicy := .zero
  audioSinkPresent := true
  timerDivider := 4
  fontBase := none
  fontData := Config.conventionalFont

/-- `FONT_BASE` as an address: the given one, else the open one. -/
def Config.fontBaseAddr (c : Config) : Nat :=
  match c.fontBase with
  | some b => b.val
  | none => Config.freeFontBase.val

end Sys2Proof
end

