-- ==== Sys2Proof/Syntax.lean ====
section
/-! DEFINITION. The instructions: one constructor per row of spec/opcode_table.json, operands as 30_encoding.md R72 names them.
Every operand's bound is in its type, so an `Instr` carries no bit the decoder ignores (30_encoding.md R76, R80). -/

namespace Sys2Proof

/-- The 34 instructions (30_encoding.md R75 to R79). -/
inductive Instr where
  /-- CLS, `0?E0` (44_display.md R190). -/
  | cls
  /-- RET, `0?EE` (41_control_flow.md R120). -/
  | ret
  /-- JP NNN, `1NNN` (R121). -/
  | jp (nnn : Addr12)
  /-- CALL NNN, `2NNN` (R122). -/
  | call (nnn : Addr12)
  /-- SE VX, NN, `3XNN` (R123). -/
  | seImm (x : RegIdx) (nn : Byte)
  /-- SNE VX, NN, `4XNN` (R124). -/
  | sneImm (x : RegIdx) (nn : Byte)
  /-- SE VX, VY, `5XY?` (R125). -/
  | seReg (x y : RegIdx)
  /-- LD VX, NN, `6XNN` (42_load_and_alu.md R140). -/
  | ldImm (x : RegIdx) (nn : Byte)
  /-- ADD VX, NN, `7XNN` (R141). -/
  | addImm (x : RegIdx) (nn : Byte)
  /-- LD VX, VY, `8XY0` (R142). -/
  | ldReg (x y : RegIdx)
  /-- OR VX, VY, `8XY1` (R143). -/
  | orReg (x y : RegIdx)
  /-- AND VX, VY, `8XY2` (R144). -/
  | andReg (x y : RegIdx)
  /-- XOR VX, VY, `8XY3` (R145). -/
  | xorReg (x y : RegIdx)
  /-- ADD VX, VY, `8XY4` (R146). -/
  | addReg (x y : RegIdx)
  /-- SUB VX, VY, `8XY5` (R147). -/
  | subReg (x y : RegIdx)
  /-- SHR VX (, VY), `8XY6` (R148). -/
  | shr (x y : RegIdx)
  /-- SUBN VX, VY, `8XY7` (R149). -/
  | subnReg (x y : RegIdx)
  /-- SHL VX (, VY), `8XYE` (R150). -/
  | shl (x y : RegIdx)
  /-- SNE VX, VY, `9XY?` (41_control_flow.md R126). -/
  | sneReg (x y : RegIdx)
  /-- LD I, NNN, `ANNN` (43_index_and_memory.md R170). -/
  | ldI (nnn : Addr12)
  /-- JP V0, NNN, `BNNN` (41_control_flow.md R127). -/
  | jpV0 (nnn : Addr12)
  /-- RND VX, NN, `CXNN` (42_load_and_alu.md R151). -/
  | rnd (x : RegIdx) (nn : Byte)
  /-- DRW VX, VY, N, `DXYN` (44_display.md R191). -/
  | drw (x y : RegIdx) (n : Nibble)
  /-- SKP VX, `EX9E` (45_timers_and_keys.md R200). -/
  | skp (x : RegIdx)
  /-- SKNP VX, `EXA1` (R201). -/
  | sknp (x : RegIdx)
  /-- LD VX, DT, `FX07` (R203). -/
  | ldVxDt (x : RegIdx)
  /-- LD VX, K, `FX0A` (R204). -/
  | ldVxK (x : RegIdx)
  /-- LD DT, VX, `FX15` (R205). -/
  | ldDtVx (x : RegIdx)
  /-- LD ST, VX, `FX18` (R206). -/
  | ldStVx (x : RegIdx)
  /-- ADD I, `FX1E` (43_index_and_memory.md R172): `x` is a register or the high nibble of `NNN`, as `AddIndexOperand` says. -/
  | addI (x : RegIdx)
  /-- LD F, VX, `FX29` (R173). -/
  | ldF (x : RegIdx)
  /-- LD B, VX, `FX33` (R176). -/
  | ldB (x : RegIdx)
  /-- LD [I], VX, `FX55` (R177). -/
  | dump (x : RegIdx)
  /-- LD VX, [I], `FX65` (R178). -/
  | load (x : RegIdx)
  deriving DecidableEq, Repr

end Sys2Proof
end

