-- ==== Sys2Proof/WellFormed.lean ====
section
/-! DEFINITION. The checks. The bounds of an `Instr`'s operands are in their types; what can be ill-formed is
an instruction WORD (30_encoding.md R81), a configuration (00_scope.md R9) and a program stream (20_memory.md R64). -/

namespace Sys2Proof

/-- The valid words, written from the list of invalid ones in 30_encoding.md R81 and not from the decoder:
groups 0, E and F by low byte, group 8 by low nibble, every other group whole. -/
def wellFormedWord (w : Word) : Bool :=
  let group := w.toNat / 4096
  let low := w.toNat % 256
  if group = 0 then [0xE0, 0xEE].contains low
  else if group = 8 then !([0x8, 0x9, 0xA, 0xB, 0xC, 0xD, 0xF].contains (w.toNat % 16))
  else if group = 14 then [0x9E, 0xA1].contains low
  else if group = 15 then [0x07, 0x0A, 0x15, 0x18, 0x1E, 0x29, 0x33, 0x55, 0x65].contains low
  else true

/-- A configuration is in its domain: the divider's count-down needs at least one cycle (10_state.md R29, `div` runs from 1 to
`TIMER_DIVIDER`); every other parameter's domain is its type. -/
abbrev Config.wellFormed (c : Config) : Prop := 1 ≤ c.timerDivider

/-- A program stream fits 0x200 to 0xFFF: at most 3584 bytes (20_memory.md R64). -/
abbrev wellFormedProgram (bytes : List Byte) : Prop := bytes.length ≤ 3584

end Sys2Proof
end

