-- ==== Sys2Proof/Decode.lean ====
section
/-! DEFINITION. Decoding (30_encoding.md R70 to R81, 40_cycle_and_dispatch.md R104 to R109), total on words and on bytes,
and the encoder written from the same encodings. -/

namespace Sys2Proof

/-- Why bytes do not decode. -/
inductive DecodeError where
  /-- The word is one of the invalid words of 30_encoding.md R81. -/
  | invalidOpcode (w : Word)
  /-- Fewer than the 2 bytes a decoder consumes (30_encoding.md R70). -/
  | truncated
  deriving DecidableEq, Repr

/-- `G = w[15:12]`, the primary group (30_encoding.md R71). -/
def fieldG (w : Word) : Nibble := w.extractLsb' 12 4

/-- `X = w[11:8]` (30_encoding.md R72). -/
def fieldX (w : Word) : RegIdx := (w.extractLsb' 8 4).toFin

/-- `Y = w[7:4]` (30_encoding.md R72). -/
def fieldY (w : Word) : RegIdx := (w.extractLsb' 4 4).toFin

/-- `N = w[3:0]` (30_encoding.md R72). -/
def fieldN (w : Word) : Nibble := w.extractLsb' 0 4

/-- `NN = w[7:0]` (30_encoding.md R72). -/
def fieldNN (w : Word) : Byte := w.extractLsb' 0 8

/-- `NNN = w[11:0]` (30_encoding.md R72). -/
def fieldNNN (w : Word) : Addr12 := w.extractLsb' 0 12

/-- Group 0, by the low byte; `w[11:8]` is not examined (40_cycle_and_dispatch.md R105). -/
def decodeGroup0 (w : Word) : Except DecodeError Instr :=
  match fieldNN w with
  | 0xE0#8 => .ok .cls
  | 0xEE#8 => .ok .ret
  | _ => .error (.invalidOpcode w)

/-- Group 8, by the low nibble (40_cycle_and_dispatch.md R106). -/
def decodeGroup8 (w : Word) : Except DecodeError Instr :=
  match fieldN w with
  | 0x0#4 => .ok (.ldReg (fieldX w) (fieldY w))
  | 0x1#4 => .ok (.orReg (fieldX w) (fieldY w))
  | 0x2#4 => .ok (.andReg (fieldX w) (fieldY w))
  | 0x3#4 => .ok (.xorReg (fieldX w) (fieldY w))
  | 0x4#4 => .ok (.addReg (fieldX w) (fieldY w))
  | 0x5#4 => .ok (.subReg (fieldX w) (fieldY w))
  | 0x6#4 => .ok (.shr (fieldX w) (fieldY w))
  | 0x7#4 => .ok (.subnReg (fieldX w) (fieldY w))
  | 0xE#4 => .ok (.shl (fieldX w) (fieldY w))
  | _ => .error (.invalidOpcode w)

/-- Group E, by the low byte (40_cycle_and_dispatch.md R107). -/
def decodeGroupE (w : Word) : Except DecodeError Instr :=
  match fieldNN w with
  | 0x9E#8 => .ok (.skp (fieldX w))
  | 0xA1#8 => .ok (.sknp (fieldX w))
  | _ => .error (.invalidOpcode w)

/-- Group F, by the low byte (40_cycle_and_dispatch.md R108). -/
def decodeGroupF (w : Word) : Except DecodeError Instr :=
  match fieldNN w with
  | 0x07#8 => .ok (.ldVxDt (fieldX w))
  | 0x0A#8 => .ok (.ldVxK (fieldX w))
  | 0x15#8 => .ok (.ldDtVx (fieldX w))
  | 0x18#8 => .ok (.ldStVx (fieldX w))
  | 0x1E#8 => .ok (.addI (fieldX w))
  | 0x29#8 => .ok (.ldF (fieldX w))
  | 0x33#8 => .ok (.ldB (fieldX w))
  | 0x55#8 => .ok (.dump (fieldX w))
  | 0x65#8 => .ok (.load (fieldX w))
  | _ => .error (.invalidOpcode w)

/-- The dispatcher's selection (40_cycle_and_dispatch.md R104, R109; 30_encoding.md R75): first the primary group, then,
in groups 0, 8, E and F, the secondary selector. The sixteen groups are all there is, so the last arm is never reached. -/
def decodeWord (w : Word) : Except DecodeError Instr :=
  match fieldG w with
  | 0x0#4 => decodeGroup0 w
  | 0x1#4 => .ok (.jp (fieldNNN w))
  | 0x2#4 => .ok (.call (fieldNNN w))
  | 0x3#4 => .ok (.seImm (fieldX w) (fieldNN w))
  | 0x4#4 => .ok (.sneImm (fieldX w) (fieldNN w))
  | 0x5#4 => .ok (.seReg (fieldX w) (fieldY w))
  | 0x6#4 => .ok (.ldImm (fieldX w) (fieldNN w))
  | 0x7#4 => .ok (.addImm (fieldX w) (fieldNN w))
  | 0x8#4 => decodeGroup8 w
  | 0x9#4 => .ok (.sneReg (fieldX w) (fieldY w))
  | 0xA#4 => .ok (.ldI (fieldNNN w))
  | 0xB#4 => .ok (.jpV0 (fieldNNN w))
  | 0xC#4 => .ok (.rnd (fieldX w) (fieldNN w))
  | 0xD#4 => .ok (.drw (fieldX w) (fieldY w) (fieldN w))
  | 0xE#4 => decodeGroupE w
  | 0xF#4 => decodeGroupF w
  | _ => .error (.invalidOpcode w)

/-- The word two bytes in memory order make: big-endian (20_memory.md R51). -/
def wordOfBytes (hi lo : Byte) : Word := hi ++ lo

/-- The two bytes of a word in memory order (20_memory.md R51). -/
def bytesOfWord (w : Word) : Byte × Byte := (w.extractLsb' 8 8, w.extractLsb' 0 8)

/-- Decoding bytes: exactly 2 are consumed (30_encoding.md R70), the first the high byte (20_memory.md R51). -/
def decodeBytes : List Byte → Except DecodeError (Instr × List Byte)
  | hi :: lo :: rest =>
    match decodeWord (wordOfBytes hi lo) with
    | .ok i => .ok (i, rest)
    | .error e => .error e
  | _ => .error .truncated

/-- A register index as the 4-bit field that names it (30_encoding.md R72). -/
def regField (r : RegIdx) : Nibble := BitVec.ofFin r

/-- The form `GNNN` (30_encoding.md R73). -/
def wordGNNN (g : Nibble) (nnn : Addr12) : Word := g ++ nnn

/-- The forms `GXNN` and `GXSS` (30_encoding.md R73). -/
def wordGXNN (g : Nibble) (x : RegIdx) (nn : Byte) : Word := g ++ regField x ++ nn

/-- The forms `GXY?`, `8XYS` and `DXYN` (30_encoding.md R73). -/
def wordGXYN (g : Nibble) (x y : RegIdx) (n : Nibble) : Word := g ++ regField x ++ regField y ++ n

/-- The word of an instruction (30_encoding.md R75 to R79), with every ignored bit 0 (log entry 18). -/
def encode : Instr → Word
  | .cls => 0x00E0#16
  | .ret => 0x00EE#16
  | .jp nnn => wordGNNN 0x1 nnn
  | .call nnn => wordGNNN 0x2 nnn
  | .seImm x nn => wordGXNN 0x3 x nn
  | .sneImm x nn => wordGXNN 0x4 x nn
  | .seReg x y => wordGXYN 0x5 x y 0x0
  | .ldImm x nn => wordGXNN 0x6 x nn
  | .addImm x nn => wordGXNN 0x7 x nn
  | .ldReg x y => wordGXYN 0x8 x y 0x0
  | .orReg x y => wordGXYN 0x8 x y 0x1
  | .andReg x y => wordGXYN 0x8 x y 0x2
  | .xorReg x y => wordGXYN 0x8 x y 0x3
  | .addReg x y => wordGXYN 0x8 x y 0x4
  | .subReg x y => wordGXYN 0x8 x y 0x5
  | .shr x y => wordGXYN 0x8 x y 0x6
  | .subnReg x y => wordGXYN 0x8 x y 0x7
  | .shl x y => wordGXYN 0x8 x y 0xE
  | .sneReg x y => wordGXYN 0x9 x y 0x0
  | .ldI nnn => wordGNNN 0xA nnn
  | .jpV0 nnn => wordGNNN 0xB nnn
  | .rnd x nn => wordGXNN 0xC x nn
  | .drw x y n => wordGXYN 0xD x y n
  | .skp x => wordGXNN 0xE x 0x9E
  | .sknp x => wordGXNN 0xE x 0xA1
  | .ldVxDt x => wordGXNN 0xF x 0x07
  | .ldVxK x => wordGXNN 0xF x 0x0A
  | .ldDtVx x => wordGXNN 0xF x 0x15
  | .ldStVx x => wordGXNN 0xF x 0x18
  | .addI x => wordGXNN 0xF x 0x1E
  | .ldF x => wordGXNN 0xF x 0x29
  | .ldB x => wordGXNN 0xF x 0x33
  | .dump x => wordGXNN 0xF x 0x55
  | .load x => wordGXNN 0xF x 0x65

/-- The bits of a word that its instruction's decoding ignores: `w[11:8]` in group 0, `w[3:0]` in groups 5 and 9
(30_encoding.md R73, R76, R80). -/
def ignoredBits (w : Word) : Word :=
  match fieldG w with
  | 0x0#4 => 0x0F00#16
  | 0x5#4 => 0x000F#16
  | 0x9#4 => 0x000F#16
  | _ => 0x0000#16

/-- The instruction word that `spec/opcode_table.json` numbers as `w` in its lowest `nbits` bits, every higher bit 0. -/
def tableWord (nbits w : Nat) : Word := BitVec.ofNat 16 (w % 2 ^ nbits)

/-- What the decoder reads from the table's word, laid out in memory order (20_memory.md R51) and given to `decodeBytes`. -/
def decodeTableWord (nbits w : Nat) : Option Instr :=
  let bytes := bytesOfWord (tableWord nbits w)
  match decodeBytes [bytes.1, bytes.2] with
  | .ok (i, _) => some i
  | .error _ => none

end Sys2Proof
end

