-- ==== Sys2Proof/Machine/State.lean ====
section
/-! DEFINITION. The state the spec gives the core (10_state.md, 60_exceptions.md R220, R223), as plain data, its reset value, and the reasons a
step can stop. Every read and write of it goes through Machine/Ops.lean. -/

namespace Sys2Proof.Machine

/-- The fault kinds with their recorded info (60_exceptions.md R220). -/
inductive FaultKind where
  /-- Code 1: the invalid 16-bit word (40_cycle_and_dispatch.md R110). -/
  | invalidOpcode (w : Word)
  /-- Code 2: CALL at depth 16 (41_control_flow.md R122). -/
  | stackOverflow
  /-- Code 3: RET at depth 0 (41_control_flow.md R120). -/
  | stackUnderflow
  /-- Code 4: the value of `I` (43_index_and_memory.md R180). -/
  | memoryOutOfRange (index : Word)
  /-- Code 5: the value of `V[X]` (45_timers_and_keys.md R200, R201). -/
  | keyIndexOutOfRange (k : Byte)
  /-- Code 6: the exact sum (43_index_and_memory.md R172). -/
  | indexOverflow (t : Nat)
  /-- Code 7: the odd `pc` (40_cycle_and_dispatch.md R101). -/
  | misalignedPc (pc : Word)
  /-- Code 8: the register, 16 for `I` (10_state.md R38). -/
  | unwrittenRegister (r : RegName)
  deriving DecidableEq, Repr

/-- The diagnostic snapshot (60_exceptions.md R223): the call stack (oldest first), `pc`, `I`, the register file, and the word being
executed. The two mark fields say which of the copied registers hold a value under `Unwritten` (log entry 10). -/
structure Snapshot where
  stack : List Word
  pc : Word
  index : Word
  indexWritten : Bool
  v : Vector Byte 16
  vWritten : Vector Bool 16
  word : Option Word
  deriving DecidableEq, Repr

/-- The execution state (10_state.md R30). -/
inductive ExecState where
  | running
  | halted
  | awaitingKey (r : RegIdx)
  | faulted (kind : FaultKind) (snapshot : Snapshot)
  deriving DecidableEq, Repr

/-- The events the core emits (00_scope.md R14; 60_exceptions.md R233). -/
inductive AudioEvent where
  | start
  | stop
  deriving DecidableEq, Repr

/-- The display buffer `disp[col][row]`, 64 columns of 32 cells, `true` a set pixel (10_state.md R32). -/
abbrev Display := Vector (Vector Bool 32) 64

/-- Memory: the bytes that differ from the reset contents, as (address, byte) pairs in rising address order
(Machine/Ops.lean says what an unlisted address reads as). -/
abbrev Memory := List Host.Cell

/-- Everything the spec gives the core. -/
structure State where
  /-- `V[0]` to `V[15]` (10_state.md R20). -/
  v : Vector Byte 16
  /-- The written marks of `V` (10_state.md R38); read only under `Unwritten`. -/
  vWritten : Vector Bool 16
  /-- `I` (10_state.md R23). -/
  index : Word
  /-- The written mark of `I` (10_state.md R38); read only under `Unwritten`. -/
  indexWritten : Bool
  /-- `pc` (10_state.md R24). -/
  pc : Word
  /-- The call stack, oldest entry first (10_state.md R27). -/
  stack : List Word
  /-- `DT` (10_state.md R28). -/
  dt : Byte
  /-- `ST` (10_state.md R28). -/
  st : Byte
  /-- The timer divider (10_state.md R29). -/
  div : Nat
  /-- `exec` (10_state.md R30). -/
  execState : ExecState
  /-- The key latches (10_state.md R31). -/
  keys : Vector Bool 16
  /-- The display buffer (10_state.md R32). -/
  disp : Display
  /-- The dirty flag (10_state.md R32). -/
  dirty : Bool
  /-- The audio gate (10_state.md R33). -/
  audio : Bool
  /-- The memory (20_memory.md R50). -/
  mem : Memory
  /-- The parameters of this core (00_scope.md R8, R9); no step changes them (log entry 1). -/
  cfg : Config
  /-- The model's own: the word the current cycle fetched, which the snapshot records (60_exceptions.md R223; log entry 7). -/
  ir : Option Word
  /-- The model's own: the events emitted so far, oldest first (00_scope.md R14; log entry 8). -/
  events : List AudioEvent
  /-- The values the host's random source has lined up, next draw first (60_exceptions.md R234, R236; log entry 4). -/
  randomInputs : List Byte
  /-- The model's own: how many free values have been drawn (log entries 4 and 5). -/
  draws : Nat
  deriving DecidableEq, Repr

/-- Why a step has no next state. -/
inductive Fault where
  /-- Raised by `cycle` alone, for a state that is already `Faulted`: it has no further step, and a call returns the same
  fault (40_cycle_and_dispatch.md R112). Safe: the hardware does nothing more either (decision D1). -/
  | alreadyFaulted (kind : FaultKind) (snapshot : Snapshot)
  deriving DecidableEq, Repr

/-- Why the model gives a step no meaning. -/
inductive Refusal where
  /-- Raised by `exec` for an instruction with no meaning yet (no instruction is left without one). Safe: nothing follows from it. -/
  | notModelled (mnemonic : String)
  deriving DecidableEq, Repr

/-- The core as constructed (10_state.md R37; 70_reset_and_hazards.md R250), for any parameters, before the program load. -/
def State.construct (cfg : Config) : State where
  v := Vector.replicate 16 0
  vWritten := Vector.replicate 16 false
  index := 0
  indexWritten := false
  pc := 0x200
  stack := []
  dt := 0
  st := 0
  div := cfg.timerDivider
  execState := .running
  keys := Vector.replicate 16 false
  disp := Vector.replicate 64 (Vector.replicate 32 false)
  dirty := false
  audio := false
  mem := []
  cfg := cfg
  ir := none
  events := []
  randomInputs := []
  draws := 0

/-- The machine right after reset, with the spec's default parameters (00_scope.md R9). -/
def State.reset : State := State.construct Config.default

end Sys2Proof.Machine
end

