-- ==== Sys2Proof/Machine/Ops.lean ====
section
/-! DEFINITION. The named operations over the state: registers, memory, stack, display, keys, draws, events, the timer tick,
and fault entry. Fault entry is `State.raiseWith` (60_exceptions.md R222); there is no return from a fault (R226). -/

namespace Sys2Proof.Machine

/-! ### General registers and the index register -/

/-- `V[r]` (00_scope.md R12). -/
def State.getV (s : State) (r : RegIdx) : Byte := s.v[r]

/-- `V[r] <- b`; the first write sets the mark (10_state.md R20, R38). -/
def State.setV (s : State) (r : RegIdx) (b : Byte) : State :=
  { s with v := s.v.set r b, vWritten := s.vWritten.set r true }

/-- `I <- w`; the first write sets the mark (10_state.md R23, R38). -/
def State.setIndex (s : State) (w : Word) : State := { s with index := w, indexWritten := true }

/-- `pc <- w` (00_scope.md R12). -/
def State.setPc (s : State) (w : Word) : State := { s with pc := w }

/-- May `V[r]` be read: always under `Zero`, once written under `Unwritten` (10_state.md R38). -/
def State.canReadV (s : State) (r : RegIdx) : Bool :=
  s.cfg.resetRegisterPolicy == .zero || s.vWritten[r]

/-- May `I` be read (10_state.md R38). -/
def State.canReadIndex (s : State) : Bool :=
  s.cfg.resetRegisterPolicy == .zero || s.indexWritten

/-! ### Fault entry -/

/-- The snapshot of the state with the word being executed (60_exceptions.md R223). -/
def State.snapshot (s : State) (word : Option Word) : Snapshot where
  stack := s.stack
  pc := s.pc
  index := s.index
  indexWritten := s.indexWritten
  v := s.v
  vWritten := s.vWritten
  word := word

/-- Fault entry: `exec` becomes Faulted with the snapshot, and nothing else changes (60_exceptions.md R222). -/
def State.raiseWith (s : State) (word : Option Word) (kind : FaultKind) : State :=
  { s with execState := .faulted kind (s.snapshot word) }

/-- A fault of the instruction being executed: the snapshot's word is the fetched one (60_exceptions.md R223). -/
def State.raise (s : State) (kind : FaultKind) : State := s.raiseWith s.ir kind

/-- Has the core faulted? -/
def State.isFaulted (s : State) : Bool :=
  match s.execState with
  | .faulted _ _ => true
  | _ => false

/-- The cause code of a fault kind (60_exceptions.md R220). -/
def FaultKind.code : FaultKind → Nat
  | .invalidOpcode _ => 1
  | .stackOverflow => 2
  | .stackUnderflow => 3
  | .memoryOutOfRange _ => 4
  | .keyIndexOutOfRange _ => 5
  | .indexOverflow _ => 6
  | .misalignedPc _ => 7
  | .unwrittenRegister _ => 8

/-! ### Memory -/

/-- `MEM_SIZE` (00_scope.md R8). -/
abbrev memSize : Nat := 0x1000

/-- `PROG_BASE` (00_scope.md R8). -/
abbrev progBase : Nat := 0x200

/-- What an unlisted address reads as: the reset contents (10_state.md R37, 43_index_and_memory.md R174). Glyph `d` occupies the five bytes
from `FONT_BASE + 5·d`; every other byte is 0x00. The font ends below `PROG_BASE` (00_scope.md R9), hence the first test. -/
def Memory.unlisted (cfg : Config) (a : Nat) : Byte :=
  if a < progBase then
    if cfg.fontBaseAddr ≤ a then
      if h : a - cfg.fontBaseAddr < 80 then
        (cfg.fontData[(a - cfg.fontBaseAddr) / 5]'(by omega))[(a - cfg.fontBaseAddr) % 5]'(by omega)
      else 0
    else 0
  else 0

/-- The listed byte at an address, if there is one. -/
def Memory.find : Memory → Nat → Option Byte
  | [], _ => none
  | (k, b) :: rest, a => if k = a then some b else Memory.find rest a

/-- Lists a byte at an address, keeping the address order. -/
def Memory.insert : Memory → Nat → Byte → Memory
  | [], a, b => [(a, b)]
  | (k, c) :: rest, a, b =>
    if a < k then (a, b) :: (k, c) :: rest
    else if a = k then (a, b) :: rest
    else (k, c) :: Memory.insert rest a b

/-- Takes an address off the list. -/
def Memory.erase : Memory → Nat → Memory
  | [], _ => []
  | (k, c) :: rest, a => if k = a then rest else (k, c) :: Memory.erase rest a

/-- The canonical form: addresses strictly rising and inside the address space, and no entry equal to what its unlisted address reads as. -/
abbrev Memory.wf (cfg : Config) (m : Memory) : Prop :=
  m.Pairwise (fun p q => p.1 < q.1) ∧ ∀ c ∈ m, c.1 < memSize ∧ c.2 ≠ Memory.unlisted cfg c.1

/-- `M[a]` of a memory (20_memory.md R55, R59). -/
def Memory.read (cfg : Config) (m : Memory) (a : Nat) : Byte :=
  match m.find a with
  | some b => b
  | none => Memory.unlisted cfg a

/-- `M[a] <- b`, in canonical form. An address outside the space does not exist and is not written (00_scope.md R13; log entry 23). -/
def Memory.write (cfg : Config) (m : Memory) (a : Nat) (b : Byte) : Memory :=
  if a < memSize then
    if b = Memory.unlisted cfg a then m.erase a else m.insert a b
  else m

/-- `M[a]` (00_scope.md R13). -/
def State.readByte (s : State) (a : Nat) : Byte := Memory.read s.cfg s.mem a

/-- `MemWrite(a, 1, b)` (00_scope.md R13). -/
def State.writeByte (s : State) (a : Nat) (b : Byte) : State := { s with mem := Memory.write s.cfg s.mem a b }

/-- Writes bytes at `a`, `a + 1`, and so on, in that order (20_memory.md R52). -/
def State.writeBytes (s : State) (a : Nat) : List Byte → State
  | [] => s
  | b :: rest => (s.writeByte a b).writeBytes (a + 1) rest

/-- `MemRead(a, 2)`, big-endian (00_scope.md R13, 20_memory.md R51). -/
def State.readWord (s : State) (a : Nat) : Word := wordOfBytes (s.readByte a) (s.readByte (a + 1))

/-- Stores a word as the hardware lays it out: the high byte first (20_memory.md R51). -/
def State.writeWord (s : State) (a : Nat) (w : Word) : State :=
  s.writeBytes a [(bytesOfWord w).1, (bytesOfWord w).2]

/-! ### The call stack -/

/-- `STACK_CAP` (00_scope.md R8). -/
abbrev stackCap : Nat := 16

/-- `push(w)` (10_state.md R27). -/
def State.push (s : State) (w : Word) : State := { s with stack := s.stack ++ [w] }

/-- The entry that `pop()` returns, the most recently pushed one; none when the stack is empty (10_state.md R27). -/
def State.top (s : State) : Option Word := s.stack.getLast?

/-- The state after `pop()` (10_state.md R27). -/
def State.dropTop (s : State) : State := { s with stack := s.stack.dropLast }

/-! ### The display -/

/-- `disp[col][row]`; a cell outside the buffer is no cell and reads `false`. -/
def Display.get (d : Display) (col row : Nat) : Bool :=
  if h : col < 64 ∧ row < 32 then (d[col]'h.1)[row]'h.2 else false

/-- `disp[col][row] <- not disp[col][row]`, for a cell inside the buffer. -/
def Display.toggle (d : Display) (col row : Nat) : Display :=
  if h : col < 64 ∧ row < 32 then
    d.set col ((d[col]'h.1).set row (!(d[col]'h.1)[row]'h.2) h.2) h.1
  else d

/-- A buffer with every cell `false` (44_display.md R190). -/
def Display.blank : Display := Vector.replicate 64 (Vector.replicate 32 false)

/-- A draw in progress: the collision so far and the buffer so far (44_display.md R191). -/
structure Blit where
  collision : Bool
  disp : Display
  deriving DecidableEq, Repr

/-- One 1 bit of a sprite: XOR the pixel and note a collision if it was set; a pixel outside the buffer is discarded, not
wrapped (44_display.md R191). -/
def Blit.plot (b : Blit) (col row : Nat) : Blit :=
  if col < 64 ∧ row < 32 then
    { collision := b.collision || Display.get b.disp col row, disp := Display.toggle b.disp col row }
  else b

/-- One row byte of a sprite: bit 7 is column offset 0, bit 0 column offset 7 (44_display.md R192, R194). -/
def Blit.row (b : Blit) (bits : Byte) (ox row : Nat) : Blit :=
  (List.range 8).foldl (fun acc c => if bits.getLsbD (7 - c) then acc.plot (ox + c) row else acc) b

/-! ### Key latches -/

/-- Is the latch of key `k` set (10_state.md R31)? There is no latch above 15. -/
def State.keyDown (s : State) (k : Nat) : Bool := s.keys.toList.getD k false

/-- `LowestPressed()`: the smallest `k` whose latch is true, if any (45_timers_and_keys.md R207). -/
def State.lowestPressed (s : State) : Option (Fin 16) :=
  (List.finRange 16).find? (fun k => s.keys[k])

/-- A key index as the byte that is written to a register (45_timers_and_keys.md R204). -/
def keyByte (k : Fin 16) : Byte := BitVec.ofNat 8 k.val

/-! ### Draws of the random source, and free values -/

/-- `draw8()`: the next value the host's random source has lined up, else a free one (00_scope.md R14, 60_exceptions.md R234; log entry 4). -/
def State.nextDraw8 (s : State) : Byte :=
  match s.randomInputs with
  | b :: _ => b
  | [] => Config.draw8 s.draws

/-- The state once `draw8()` has been used: the supplied value is consumed, or the counter of free values advances. -/
def State.afterDraw8 (s : State) : State :=
  match s.randomInputs with
  | _ :: rest => { s with randomInputs := rest }
  | [] => { s with draws := s.draws + 1 }

/-- `draw16()`: a free value (00_scope.md R14; log entry 5). -/
def State.nextDraw16 (s : State) : Word := Config.draw16 s.draws

/-- The state once `draw16()` has been used. -/
def State.afterDraw16 (s : State) : State := { s with draws := s.draws + 1 }

/-! ### Counters, the audio gate and the timer tick -/

/-- `emit AudioStart` with the gate turned on (10_state.md R33). -/
def State.audioStart (s : State) : State := { s with audio := true, events := s.events ++ [.start] }

/-- `emit AudioStop` with the gate turned off (10_state.md R33). -/
def State.audioStop (s : State) : State := { s with audio := false, events := s.events ++ [.stop] }

/-- The delay counter's decrement, saturating at 0 (60_exceptions.md R228). -/
def State.tickDelay (s : State) : State := if s.dt = 0 then s else { s with dt := s.dt - 1 }

/-- The sound counter's decrement, saturating at 0; exactly from 1 to 0 it stops the gate (60_exceptions.md R228). -/
def State.tickSound (s : State) : State :=
  if s.st = 0 then s
  else if s.st - 1 = 0 then ({ s with st := s.st - 1 }).audioStop
  else { s with st := s.st - 1 }

/-- `TimerTick()` (60_exceptions.md R228). -/
def timerTick (s : State) : State :=
  if s.div - 1 = 0 then ({ s with div := s.cfg.timerDivider }).tickDelay.tickSound
  else { s with div := s.div - 1 }

/-! ### Fetching -/

/-- The word at `pc` does not lie wholly in memory (40_cycle_and_dispatch.md R101). -/
def State.pcBeyondMemory (s : State) : Bool := s.pc.toNat + 2 > memSize

/-- A fetch at this `pc` is a fault of alignment (20_memory.md R53). -/
def State.pcMisaligned (s : State) : Bool := s.pc.getLsbD 0 && s.cfg.oddPcPolicy == .fault

/-- `Fetch()`: the word at `pc` is latched and `pc` moves past it (40_cycle_and_dispatch.md R102). -/
def State.fetched (s : State) : State := { s with ir := some (s.readWord s.pc.toNat), pc := s.pc + 2 }

/-- The next cycle, if `Running`, executes the word at `pc` (40_cycle_and_dispatch.md R101). -/
def State.fetchesAtPc (s : State) : Bool := s.pc.toNat + 2 < memSize && !s.pcMisaligned

/-- The state made ready to execute the word at its `pc`: `Running`, and at the reset entry point if no word executes at this `pc`. -/
def State.fetchReady (s : State) : State :=
  { s with execState := .running, pc := if s.fetchesAtPc then s.pc else 0x200 }

end Sys2Proof.Machine
end

