-- ==== Sys2Proof/Machine/Operands.lean ====
section
/-! DEFINITION. The operand forms: reading a register in pseudocode order with its `UnwrittenRegister` check (10_state.md R38), immediates
(30_encoding.md R74), the data address (43_index_and_memory.md R179), and the parameterised operands. -/

namespace Sys2Proof.Machine

/-- Reads `V[r]` and goes on with its value, or raises `UnwrittenRegister(r)` (10_state.md R38). -/
def State.withV (s : State) (r : RegIdx) (go : Byte → State) : State :=
  if s.canReadV r then go (s.getV r) else s.raise (.unwrittenRegister r.castSucc)

/-- Reads `I` and goes on with its value, or raises `UnwrittenRegister(16)` (10_state.md R38). -/
def State.withIndex (s : State) (go : Word → State) : State :=
  if s.canReadIndex then go s.index else s.raise (.unwrittenRegister 16)

/-- Reads the listed registers in order, for their checks alone, and goes on (10_state.md R38). -/
def State.withAllV (s : State) : List RegIdx → State → State
  | [], go => go
  | r :: rest, go => s.withV r (fun _ => s.withAllV rest go)

/-- `zext_16(NNN)` (30_encoding.md R74). -/
def zextAddr (nnn : Addr12) : Word := nnn.zeroExtend 16

/-- `zext_16(V)` of a register's value (30_encoding.md R74). -/
def zextByte (b : Byte) : Word := b.zeroExtend 16

/-- The address of the `k`-th byte from `I`: exact, neither masked nor wrapped (43_index_and_memory.md R179). -/
def dataAddr (index : Word) (k : Nat) : Nat := index.toNat + k

/-- Goes on if the last byte an access touches, `I + k`, is in memory, else raises `MemoryOutOfRange(I)`
(43_index_and_memory.md R180). -/
def State.inMemory (s : State) (index : Word) (k : Nat) (go : State) : State :=
  if dataAddr index k > 0xFFF then s.raise (.memoryOutOfRange index) else go

/-- The register a shift reads (42_load_and_alu.md R148, R150). -/
def shiftOperand (cfg : Config) (x y : RegIdx) : RegIdx :=
  match cfg.shiftSource with
  | .vx => x
  | .vy => y

/-- `NNN = w[11:0]` of the word FX1E: `X·0x100 + 0x1E` (43_index_and_memory.md R172). -/
def addIndexImmediate (x : RegIdx) : Addr12 := BitVec.ofNat 12 (x.val * 0x100 + 0x1E)

/-- The addend of FX1E (43_index_and_memory.md R172). -/
def State.withIndexAddend (s : State) (x : RegIdx) (go : Word → State) : State :=
  match s.cfg.addIndexOperand with
  | .imm12 => go (zextAddr (addIndexImmediate x))
  | .vx => s.withV x (fun b => go (zextByte b))

/-- The address of font glyph `d` (43_index_and_memory.md R173, R174). -/
def glyphAddr (cfg : Config) (d : Byte) : Word := BitVec.ofNat 16 (cfg.fontBaseAddr + 5 * d.toNat)

/-- The registers `V[0]` to `V[x]`, in increasing order (43_index_and_memory.md R177, R178). -/
def regsUpTo (x : RegIdx) : List RegIdx := (List.finRange 16).filter (fun r => r.val ≤ x.val)

/-- Goes on with the latch of key `V[X]`, or raises `KeyIndexOutOfRange` (45_timers_and_keys.md R200, R201). -/
def State.withKey (s : State) (k : Byte) (go : Bool → State) : State :=
  if k.toNat > 0xF then s.raise (.keyIndexOutOfRange k) else go (s.keyDown k.toNat)

/-- A skip whose condition holds adds 2 to `pc`, whatever the next word is (41_control_flow.md R123). -/
def State.skipIf (s : State) (cond : Bool) : State := if cond then s.setPc (s.pc + 2) else s

end Sys2Proof.Machine
end

