-- ==== Sys2Proof/Machine/Control.lean ====
section
/-! DEFINITION. Control transfer (41_control_flow.md). `pc` already holds the instruction's address plus 2 (40_cycle_and_dispatch.md R102). -/

namespace Sys2Proof.Machine

/-- What a meaning answers: a next state, a fault or a refusal. -/
abbrev Result := Host.Outcome State Fault Refusal

/-- RET (41_control_flow.md R120). -/
def execRet (s : State) : Result :=
  .next (match s.top with
    | none => s.raise .stackUnderflow
    | some a => s.dropTop.setPc a)

/-- JP NNN (41_control_flow.md R121). -/
def execJp (nnn : Addr12) (s : State) : Result := .next (s.setPc (zextAddr nnn))

/-- CALL NNN (41_control_flow.md R122). -/
def execCall (nnn : Addr12) (s : State) : Result :=
  .next (if stackCap ≤ s.stack.length then s.raise .stackOverflow
    else (s.push s.pc).setPc (zextAddr nnn))

/-- SE VX, NN (41_control_flow.md R123). -/
def execSeImm (x : RegIdx) (nn : Byte) (s : State) : Result :=
  .next (s.withV x fun a => s.skipIf (a == nn))

/-- SNE VX, NN (41_control_flow.md R124). -/
def execSneImm (x : RegIdx) (nn : Byte) (s : State) : Result :=
  .next (s.withV x fun a => s.skipIf (a != nn))

/-- SE VX, VY (41_control_flow.md R125). -/
def execSeReg (x y : RegIdx) (s : State) : Result :=
  .next (s.withV x fun a => s.withV y fun b => s.skipIf (a == b))

/-- SNE VX, VY (41_control_flow.md R126). -/
def execSneReg (x y : RegIdx) (s : State) : Result :=
  .next (s.withV x fun a => s.withV y fun b => s.skipIf (a != b))

/-- JP V0, NNN: the sum is neither masked nor wrapped (41_control_flow.md R127). -/
def execJpV0 (nnn : Addr12) (s : State) : Result :=
  .next (s.withV 0 fun a => s.setPc (zextAddr nnn + zextByte a))

end Sys2Proof.Machine
end

