-- ==== Sys2Proof/Machine/Flags.lean ====
section
/-! DEFINITION. The 8-bit arithmetic unit and every flag computation (42_load_and_alu.md R152, R153; 43_index_and_memory.md R171;
44_display.md R193). A flag is computed from the operands read at the start and written to VF after the result. -/

namespace Sys2Proof.Machine

/-- What an operation writes: its result to `V[X]`, its flag to VF. -/
structure AluResult where
  value : Byte
  flag : Byte
  deriving DecidableEq, Repr

/-- A condition as a flag byte, 1 or 0. -/
def flagByte (b : Bool) : Byte := if b then 1 else 0

/-- Add: the flag is 1 iff the exact sum overflows 8 bits (42_load_and_alu.md R146, R153). -/
def aluAdd (a b : Byte) : AluResult := ⟨BitVec.ofNat 8 (a.toNat + b.toNat), flagByte (a.toNat + b.toNat > 255)⟩

/-- Subtract: the flag is 1 iff a borrow occurred (42_load_and_alu.md R147, R153). -/
def aluSub (a b : Byte) : AluResult := ⟨BitVec.ofInt 8 ((a.toNat : Int) - b.toNat), flagByte (a.toNat < b.toNat)⟩

/-- Shift right by one: the flag is the bit shifted out (42_load_and_alu.md R148, R153). -/
def aluShr (s : Byte) : AluResult := ⟨s >>> 1, s &&& 0x01⟩

/-- Shift left by one: the flag is the raw high bit, 0x80 or 0x00 (42_load_and_alu.md R150, R153). -/
def aluShl (s : Byte) : AluResult := ⟨s <<< 1, s &&& 0x80⟩

/-- The result into `V[X]`, then the flag into VF: when `X = F`, VF holds the flag (42_load_and_alu.md R153; 10_state.md R21). -/
def State.writeAlu (s : State) (x : RegIdx) (r : AluResult) : State := (s.setV x r.value).setV VF r.flag

/-- The index-overflow detector (43_index_and_memory.md R171). -/
def indexOverflowFlag (t : Nat) : Byte := flagByte (t > 0xFFF)

end Sys2Proof.Machine
end

