-- ==== Sys2Proof/Machine/Alu.lean ====
section
/-! DEFINITION. Loads, the arithmetic group and random (42_load_and_alu.md). -/

namespace Sys2Proof.Machine

/-- Reads `V[X]`, then `V[Y]`, and writes `f a b` to `V[X]` with no flag. -/
def State.binaryNoFlag (s : State) (x y : RegIdx) (f : Byte → Byte → Byte) : State :=
  s.withV x fun a => s.withV y fun b => s.setV x (f a b)

/-- Reads `V[X]`, then `V[Y]`, and writes the result and then the flag of `f a b`. -/
def State.binaryWithFlag (s : State) (x y : RegIdx) (f : Byte → Byte → AluResult) : State :=
  s.withV x fun a => s.withV y fun b => s.writeAlu x (f a b)

/-- LD VX, NN (42_load_and_alu.md R140). -/
def execLdImm (x : RegIdx) (nn : Byte) (s : State) : Result := .next (s.setV x nn)

/-- ADD VX, NN: VF is written only under `AddImmWritesVF` (42_load_and_alu.md R141). -/
def execAddImm (x : RegIdx) (nn : Byte) (s : State) : Result :=
  .next (s.withV x fun a =>
    if s.cfg.addImmWritesVF then s.writeAlu x (aluAdd a nn) else s.setV x (aluAdd a nn).value)

/-- LD VX, VY: reads `V[Y]` only (42_load_and_alu.md R142). -/
def execLdReg (x y : RegIdx) (s : State) : Result := .next (s.withV y fun b => s.setV x b)

/-- OR VX, VY (42_load_and_alu.md R143). -/
def execOrReg (x y : RegIdx) (s : State) : Result := .next (s.binaryNoFlag x y (· ||| ·))

/-- AND VX, VY (42_load_and_alu.md R144). -/
def execAndReg (x y : RegIdx) (s : State) : Result := .next (s.binaryNoFlag x y (· &&& ·))

/-- XOR VX, VY (42_load_and_alu.md R145). -/
def execXorReg (x y : RegIdx) (s : State) : Result := .next (s.binaryNoFlag x y (· ^^^ ·))

/-- ADD VX, VY (42_load_and_alu.md R146). -/
def execAddReg (x y : RegIdx) (s : State) : Result := .next (s.binaryWithFlag x y aluAdd)

/-- SUB VX, VY (42_load_and_alu.md R147). -/
def execSubReg (x y : RegIdx) (s : State) : Result := .next (s.binaryWithFlag x y aluSub)

/-- SHR VX (, VY) (42_load_and_alu.md R148). -/
def execShr (x y : RegIdx) (s : State) : Result :=
  .next (s.withV (shiftOperand s.cfg x y) fun a => s.writeAlu x (aluShr a))

/-- SUBN VX, VY: the operands swapped (42_load_and_alu.md R149). -/
def execSubnReg (x y : RegIdx) (s : State) : Result := .next (s.binaryWithFlag x y fun a b => aluSub b a)

/-- SHL VX (, VY) (42_load_and_alu.md R150). -/
def execShl (x y : RegIdx) (s : State) : Result :=
  .next (s.withV (shiftOperand s.cfg x y) fun a => s.writeAlu x (aluShl a))

/-- RND VX, NN: one draw per execution (42_load_and_alu.md R151; log entry 4). -/
def execRnd (x : RegIdx) (nn : Byte) (s : State) : Result :=
  .next (s.afterDraw8.setV x (s.nextDraw8 &&& nn))

end Sys2Proof.Machine
end

