-- ==== Sys2Proof/Machine/Draw.lean ====
section
/-! DEFINITION. The display instructions (44_display.md). -/

namespace Sys2Proof.Machine

/-- CLS: every cell false, the dirty flag set, VF untouched (44_display.md R190). -/
def execCls (s : State) : Result := .next { s with disp := Display.blank, dirty := true }

/-- The rows of a sprite, top row first; a row whose address is above 0xFFF is skipped (44_display.md R191). -/
def State.blitRows (s : State) (i : Word) (ox oy : Nat) (rows : List Nat) (b : Blit) : Blit :=
  rows.foldl (fun acc r =>
    if dataAddr i r > 0xFFF then acc else acc.row (s.readByte (dataAddr i r)) ox (oy + r)) b

/-- The end of a draw: the buffer, the dirty flag, and VF last (44_display.md R191). -/
def State.finishDraw (s : State) (b : Blit) : State :=
  ({ s with disp := b.disp, dirty := true }).setV VF (flagByte b.collision)

/-- DRW VX, VY, N: `I` is read by the rows, so not at all when `N = 0` (44_display.md R191; log entry 11). -/
def execDrw (x y : RegIdx) (n : Nibble) (s : State) : Result :=
  .next (s.withV x fun ox => s.withV y fun oy =>
    if n.toNat = 0 then s.finishDraw ⟨false, s.disp⟩
    else s.withIndex fun i =>
      s.finishDraw (s.blitRows i ox.toNat oy.toNat (List.range n.toNat) ⟨false, s.disp⟩))

end Sys2Proof.Machine
end

