-- ==== Sys2Proof/Machine/Index.lean ====
section
/-! DEFINITION. The index register and memory transfer (43_index_and_memory.md). -/

namespace Sys2Proof.Machine

/-- LD I, NNN (43_index_and_memory.md R170). -/
def execLdI (nnn : Addr12) (s : State) : Result := .next (s.setIndex (zextAddr nnn))

/-- ADD I: an exact sum; above 0xFFFF it faults, else it is stored unmasked and VF is written last
(43_index_and_memory.md R171, R172). -/
def execAddI (x : RegIdx) (s : State) : Result :=
  .next (s.withIndexAddend x fun addend => s.withIndex fun i =>
    if i.toNat + addend.toNat > 0xFFFF then s.raise (.indexOverflow (i.toNat + addend.toNat))
    else (s.setIndex (BitVec.ofNat 16 (i.toNat + addend.toNat))).setV VF
      (indexOverflowFlag (i.toNat + addend.toNat)))

/-- LD F, VX: glyph `V[X]`, or a free value above 0xF (43_index_and_memory.md R173; log entry 5). -/
def execLdF (x : RegIdx) (s : State) : Result :=
  .next (s.withV x fun d =>
    if d.toNat ≤ 0xF then s.setIndex (glyphAddr s.cfg d) else s.afterDraw16.setIndex s.nextDraw16)

/-- The three decimal digits of a byte, hundreds first (43_index_and_memory.md R175). -/
def bcdDigits (v : Byte) : List Byte :=
  [BitVec.ofNat 8 (v.toNat / 100), BitVec.ofNat 8 (v.toNat / 10 % 10), BitVec.ofNat 8 (v.toNat % 10)]

/-- LD B, VX: the register is read, then `I`, then the range is checked, before any write (43_index_and_memory.md R176, R180). -/
def execLdB (x : RegIdx) (s : State) : Result :=
  .next (s.withV x fun v => s.withIndex fun i =>
    s.inMemory i 2 (s.writeBytes (dataAddr i 0) (bcdDigits v)))

/-- `I <- I + X + 1` (43_index_and_memory.md R177, R178). -/
def State.advanceIndex (s : State) (i : Word) (x : RegIdx) : State :=
  s.setIndex (i + BitVec.ofNat 16 (x.val + 1))

/-- LD [I], VX: every check precedes the first write (43_index_and_memory.md R177, R180; log entry 12). -/
def execDump (x : RegIdx) (s : State) : Result :=
  .next (s.withIndex fun i => s.inMemory i x.val (s.withAllV (regsUpTo x)
    ((s.writeBytes (dataAddr i 0) ((regsUpTo x).map s.getV)).advanceIndex i x)))

/-- Loads the listed registers, each from its own offset from `I`, in the list's order (43_index_and_memory.md R178). -/
def State.loadRegs (s : State) (i : Word) : List RegIdx → State
  | [] => s
  | r :: rest => (s.setV r (s.readByte (dataAddr i r.val))).loadRegs i rest

/-- LD VX, [I] (43_index_and_memory.md R178, R180). -/
def execLoad (x : RegIdx) (s : State) : Result :=
  .next (s.withIndex fun i => s.inMemory i x.val ((s.loadRegs i (regsUpTo x)).advanceIndex i x))

end Sys2Proof.Machine
end

