-- ==== Sys2Proof/Machine/KeysTimers.lean ====
section
/-! DEFINITION. Key and timer instructions (45_timers_and_keys.md). -/

namespace Sys2Proof.Machine

/-- SKP VX (45_timers_and_keys.md R200). -/
def execSkp (x : RegIdx) (s : State) : Result :=
  .next (s.withV x fun k => s.withKey k fun down => s.skipIf down)

/-- SKNP VX (45_timers_and_keys.md R201). -/
def execSknp (x : RegIdx) (s : State) : Result :=
  .next (s.withV x fun k => s.withKey k fun down => s.skipIf (!down))

/-- LD VX, DT (45_timers_and_keys.md R203). -/
def execLdVxDt (x : RegIdx) (s : State) : Result := .next (s.setV x s.dt)

/-- LD VX, K: resolve at once if a latch is set, else wait (45_timers_and_keys.md R204). -/
def execLdVxK (x : RegIdx) (s : State) : Result :=
  .next (match s.lowestPressed with
    | some k => s.setV x (keyByte k)
    | none => { s with execState := .awaitingKey x })

/-- LD DT, VX (45_timers_and_keys.md R205). -/
def execLdDtVx (x : RegIdx) (s : State) : Result := .next (s.withV x fun a => { s with dt := a })

/-- LD ST, VX: a nonzero value starts the gate, 0 leaves it as it is (45_timers_and_keys.md R206). -/
def execLdStVx (x : RegIdx) (s : State) : Result :=
  .next (s.withV x fun a => if a = 0 then { s with st := a } else ({ s with st := a }).audioStart)

end Sys2Proof.Machine
end

