-- ==== Sys2Proof/Machine/Cycle.lean ====
section
/-! DEFINITION. One call of `cycle()` (40_cycle_and_dispatch.md R100 to R114). -/

namespace Sys2Proof.Machine

/-- The end of a cycle that executed an instruction: the timer tick, unless the instruction faulted (40_cycle_and_dispatch.md R114;
60_exceptions.md R222). -/
def finishCycle (s : State) : State := if s.isFaulted then s else timerTick s

/-- `Execute(w)` and the timer tick (40_cycle_and_dispatch.md R101, R104, R110). -/
def executeWord (w : Word) (s : State) : Result :=
  match decodeWord w with
  | .error _ => .next (s.raise (.invalidOpcode w))
  | .ok i =>
    match exec i s with
    | .next t => .next (finishCycle t)
    | .fault f => .fault f
    | .refused r => .refused r

/-- The fetched word, executed unless it came from 0xFFE (40_cycle_and_dispatch.md R101). -/
def runFetched (w : Word) (s : State) : Result :=
  if memSize ≤ s.pc.toNat then .next { s with execState := .halted } else executeWord w s

/-- `RunCycle()` (40_cycle_and_dispatch.md R101, R102). For `MisalignedPc` no word was fetched (60_exceptions.md R223). -/
def runCycle (s : State) : Result :=
  if s.pcBeyondMemory then .next { s with execState := .halted }
  else if s.pcMisaligned then .next (s.raiseWith none (.misalignedPc s.pc))
  else runFetched (s.readWord s.pc.toNat) s.fetched

/-- `AwaitKeyCycle(r)` (40_cycle_and_dispatch.md R113). -/
def awaitKeyCycle (r : RegIdx) (s : State) : State :=
  match s.lowestPressed with
  | some k => timerTick { s.setV r (keyByte k) with execState := .running }
  | none => timerTick s

/-- `cycle()` (40_cycle_and_dispatch.md R100). A halted core does nothing (R111); a faulted one has no step (R112, log entry 6). -/
def cycle (s : State) : Result :=
  match s.execState with
  | .halted => .next s
  | .faulted kind snapshot => .fault (.alreadyFaulted kind snapshot)
  | .awaitingKey r => .next (awaitKeyCycle r s)
  | .running => runCycle s

/-- Places the table's word where the next cycle fetches, in a state made ready to execute it. -/
def placeTableWord (s : State) (nbits w : Nat) : State :=
  s.fetchReady.writeWord s.fetchReady.pc.toNat (tableWord nbits w)

end Sys2Proof.Machine
end

