-- ==== Sys2Proof/Machine/Step.lean ====
section
/-! DEFINITION. One step of the machine is one call of `cycle()` (40_cycle_and_dispatch.md R100). -/

namespace Sys2Proof.Machine

/-- One step: `cycle()`. -/
def step (s : State) : Host.Outcome State Fault Refusal := cycle s

/-- The state with a word of spec/opcode_table.json stored where the next step fetches it (log entry 15). -/
def State.withFetchWord (s : State) (nbits w : Nat) : State := placeTableWord s nbits w

end Sys2Proof.Machine
end

