-- ==== Sys2Proof/Machine/HostInterface.lean ====
section
/-! DEFINITION. What the host can do to the core between cycles and what it gets back (60_exceptions.md R231 to R236). -/

namespace Sys2Proof.Machine

/-- Why a program load is refused (20_memory.md R64). -/
inductive LoadError where
  /-- The stream is longer than the 3584 bytes from 0x200 to 0xFFF; memory is unchanged. -/
  | streamTooLong (length : Nat)
  deriving DecidableEq, Repr

/-- `load(bytes)`: byte `k` goes to `M[0x200 + k]`, or `LoadError` (20_memory.md R64). -/
def loadProgram (bytes : List Byte) (s : State) : Except LoadError State :=
  if wellFormedProgram bytes then .ok (s.writeBytes progBase bytes) else .error (.streamTooLong bytes.length)

/-- A latch write; an index of 16 or more is refused and changes nothing (60_exceptions.md R232, R236). -/
def State.setKey (s : State) (k : Nat) (down : Bool) : State :=
  if h : k < 16 then { s with keys := s.keys.set k down h } else s

/-- `key_pressed(k)` (60_exceptions.md R232). -/
def keyPressed (k : Nat) (s : State) : State := s.setKey k true

/-- `key_released(k)` (60_exceptions.md R232). -/
def keyReleased (k : Nat) (s : State) : State := s.setKey k false

/-- The display read: the buffer and the dirty flag, changing nothing (60_exceptions.md R231, R236). -/
def displayRead (s : State) : Display × Bool := (s.disp, s.dirty)

/-- The display acknowledge (60_exceptions.md R236). -/
def acknowledgeDisplay (s : State) : State := { s with dirty := false }

/-- The random source lines up one more byte for a CXNN (60_exceptions.md R234, R236). -/
def supplyRandom (b : Byte) (s : State) : State := { s with randomInputs := s.randomInputs ++ [b] }

/-- The events that reach the audio sink: all that were emitted, or none when no sink is attached (10_state.md R33; 60_exceptions.md R233). -/
def audioSinkReceives (s : State) : List AudioEvent := if s.cfg.audioSinkPresent then s.events else []

/-- What reaches the diagnostic sink once a fault is raised (60_exceptions.md R235). -/
def diagnosticSinkReceives (s : State) : Option (FaultKind × Snapshot) :=
  match s.execState with
  | .faulted kind snapshot => some (kind, snapshot)
  | _ => none

/-- The result of a `cycle()` call (40_cycle_and_dispatch.md R115). -/
inductive CycleResult where
  | continue
  | halted
  | fault (kind : FaultKind) (snapshot : Snapshot)
  deriving DecidableEq, Repr

/-- The result that goes with the state a cycle leaves (40_cycle_and_dispatch.md R115; log entry 25). -/
def cycleResult (after : State) : CycleResult :=
  match after.execState with
  | .halted => .halted
  | .faulted kind snapshot => .fault kind snapshot
  | .running => .continue
  | .awaitingKey _ => .continue

/-- The result a call of `cycle()` returns: that of the state it leaves, and for a faulted core the same fault again
(40_cycle_and_dispatch.md R112, R115). None for a refusal, which no cycle gives. -/
def callResult (s : State) : Option CycleResult :=
  match step s with
  | .next t => some (cycleResult t)
  | .fault (.alreadyFaulted kind snapshot) => some (.fault kind snapshot)
  | .refused _ => none

/-- What the host does while cycles run (60_exceptions.md R236). -/
inductive HostAction where
  | keyPressed (k : Nat)
  | keyReleased (k : Nat)
  | acknowledgeDisplay
  | supplyRandom (b : Byte)
  deriving DecidableEq, Repr

/-- The effect of a host action (60_exceptions.md R236). -/
def HostAction.apply : HostAction → State → State
  | .keyPressed k, s => Sys2Proof.Machine.keyPressed k s
  | .keyReleased k, s => Sys2Proof.Machine.keyReleased k s
  | .acknowledgeDisplay, s => Sys2Proof.Machine.acknowledgeDisplay s
  | .supplyRandom b, s => Sys2Proof.Machine.supplyRandom b s

end Sys2Proof.Machine
end

