-- ==== Sys2Proof/Safety.lean ====
section
/-! DEFINITION. The terms claims use: what a step executes, the invariant, what an instruction reads, may raise
and may write, the pixels of a sprite, and the outputs nothing reads. -/

namespace Sys2Proof.Machine

/-- A safe state is one that has not faulted (60_exceptions.md R222). -/
abbrev State.safe (s : State) : Prop := s.isFaulted = false

/-- The next cycle executes `i`: the core runs, the word at `pc` is wholly below 0x1000 and not the one at 0xFFE, no alignment fault comes
first, and it decodes to `i` (40_cycle_and_dispatch.md R101). -/
structure Executes (s : State) (i : Instr) : Prop where
  running : s.execState = .running
  inMemory : s.pc.toNat + 2 < 0x1000
  aligned : s.pcMisaligned = false
  decodes : decodeWord (s.readWord s.pc.toNat) = .ok i

/-- What holds of every state a run reaches. -/
structure Invariant (s : State) : Prop where
  /-- The parameters are in their domain. -/
  cfg : s.cfg.wellFormed
  /-- Memory is in canonical form. -/
  mem : Memory.wf s.cfg s.mem
  /-- At most 16 return addresses (10_state.md R27). -/
  depth : s.stack.length ≤ 16
  /-- A pushed address is at most 0xFFF (41_control_flow.md R120). -/
  returns : ∀ a ∈ s.stack, a.toNat ≤ 0xFFF
  /-- `pc` is at most 0x10FE (10_state.md R26). -/
  pc : s.pc.toNat ≤ 0x10FE
  /-- `div` is 1 to `TIMER_DIVIDER` (10_state.md R29). -/
  divPos : 1 ≤ s.div
  divLe : s.div ≤ s.cfg.timerDivider
  /-- The gate is on exactly when the last event was a start (10_state.md R33, 60_exceptions.md R229). -/
  gate : s.audio = (s.events.getLast? == some .start)
  /-- A nonzero sound counter has the gate on (45_timers_and_keys.md R206, 60_exceptions.md R228). -/
  sounding : s.st ≠ 0 → s.audio = true
  /-- A faulted core is as its snapshot says (60_exceptions.md R222, R223). -/
  snapshot : ∀ kind snap, s.execState = .faulted kind snap → ∃ word, snap = s.snapshot word

/-- May a named register be read, 16 naming `I` (10_state.md R38). -/
def State.canRead (s : State) (r : RegName) : Bool :=
  if h : r.val < 16 then s.canReadV ⟨r.val, h⟩ else s.canReadIndex

end Sys2Proof.Machine

namespace Sys2Proof

open Machine

/-- The registers an instruction reads, in pseudocode order (10_state.md R38). -/
def Instr.reads (cfg : Config) : Instr → List RegName
  | .cls => []
  | .ret => []
  | .jp _ => []
  | .call _ => []
  | .seImm x _ => [x.castSucc]
  | .sneImm x _ => [x.castSucc]
  | .seReg x y => [x.castSucc, y.castSucc]
  | .ldImm _ _ => []
  | .addImm x _ => [x.castSucc]
  | .ldReg _ y => [y.castSucc]
  | .orReg x y => [x.castSucc, y.castSucc]
  | .andReg x y => [x.castSucc, y.castSucc]
  | .xorReg x y => [x.castSucc, y.castSucc]
  | .addReg x y => [x.castSucc, y.castSucc]
  | .subReg x y => [x.castSucc, y.castSucc]
  | .shr x y => [(shiftOperand cfg x y).castSucc]
  | .subnReg x y => [x.castSucc, y.castSucc]
  | .shl x y => [(shiftOperand cfg x y).castSucc]
  | .sneReg x y => [x.castSucc, y.castSucc]
  | .ldI _ => []
  | .jpV0 _ => [0]
  | .rnd _ _ => []
  | .drw x y n => [x.castSucc, y.castSucc] ++ if n.toNat = 0 then [] else [16]
  | .skp x => [x.castSucc]
  | .sknp x => [x.castSucc]
  | .ldVxDt _ => []
  | .ldVxK _ => []
  | .ldDtVx x => [x.castSucc]
  | .ldStVx x => [x.castSucc]
  | .addI x =>
    match cfg.addIndexOperand with
    | .imm12 => [16]
    | .vx => [x.castSucc, 16]
  | .ldF x => [x.castSucc]
  | .ldB x => [x.castSucc, 16]
  | .dump x => 16 :: (regsUpTo x).map Fin.castSucc
  | .load _ => [16]

/-- The codes of the faults an instruction can raise besides `UnwrittenRegister` (60_exceptions.md R221). -/
def Instr.faultCodes : Instr → List Nat
  | .ret => [3]
  | .call _ => [2]
  | .skp _ => [5]
  | .sknp _ => [5]
  | .addI _ => [6]
  | .ldB _ => [4]
  | .dump _ => [4]
  | .load _ => [4]
  | .cls => []
  | .jp _ => []
  | .seImm _ _ => []
  | .sneImm _ _ => []
  | .seReg _ _ => []
  | .ldImm _ _ => []
  | .addImm _ _ => []
  | .ldReg _ _ => []
  | .orReg _ _ => []
  | .andReg _ _ => []
  | .xorReg _ _ => []
  | .addReg _ _ => []
  | .subReg _ _ => []
  | .shr _ _ => []
  | .subnReg _ _ => []
  | .shl _ _ => []
  | .sneReg _ _ => []
  | .ldI _ => []
  | .jpV0 _ => []
  | .rnd _ _ => []
  | .drw _ _ _ => []
  | .ldVxDt _ => []
  | .ldVxK _ => []
  | .ldDtVx _ => []
  | .ldStVx _ => []
  | .ldF _ => []

end Sys2Proof

namespace Sys2Proof.Machine

/-- What an instruction may write; what is left at its default it does not touch. -/
structure Writes where
  regs : List RegIdx := []
  index : Bool := false
  pc : Bool := false
  stack : Bool := false
  dt : Bool := false
  st : Bool := false
  gate : Bool := false
  display : Bool := false
  waits : Bool := false
  draws : Bool := false
  memory : List Nat := []

/-- Everything but what `w` names is as it was. An instruction that faults enters Faulted and writes nothing at all (60_exceptions.md R222). -/
structure Frame (w : Writes) (s t : State) : Prop where
  regs : ∀ r, r ∉ w.regs → t.getV r = s.getV r ∧ t.vWritten[r] = s.vWritten[r]
  index : w.index = false → t.index = s.index ∧ t.indexWritten = s.indexWritten
  pc : w.pc = false → t.pc = s.pc
  stack : w.stack = false → t.stack = s.stack
  dt : w.dt = false → t.dt = s.dt
  st : w.st = false → t.st = s.st
  gate : w.gate = false → t.audio = s.audio ∧ t.events = s.events
  display : w.display = false → t.disp = s.disp ∧ t.dirty = s.dirty
  execState : w.waits = false → t.isFaulted = false → t.execState = s.execState
  draws : w.draws = false → t.randomInputs = s.randomInputs ∧ t.draws = s.draws
  memory : ∀ a, a ∉ w.memory → t.readByte a = s.readByte a
  div : t.div = s.div
  keys : t.keys = s.keys
  cfg : t.cfg = s.cfg
  ir : t.ir = s.ir

/-- The sprite of `n` rows at `I`, drawn at `(ox, oy)`, has a 1 bit on cell `(col, row)`; a row above 0xFFF has none
(44_display.md R191, R192, R194). -/
def spriteBit (s : State) (ox oy n col row : Nat) : Bool :=
  decide (oy ≤ row ∧ row - oy < n ∧ ox ≤ col ∧ col - ox < 8 ∧ dataAddr s.index (row - oy) ≤ 0xFFF) &&
    (s.readByte (dataAddr s.index (row - oy))).getLsbD (7 - (col - ox))

/-- Equal in everything but the outputs: the gate, the dirty flag, the emitted events, and whether a sink listens. -/
def SameButOutputs (s t : State) : Prop :=
  t = { s with audio := t.audio, dirty := t.dirty, events := t.events,
               cfg := { s.cfg with audioSinkPresent := t.cfg.audioSinkPresent } }

end Sys2Proof.Machine
end

