-- ==== Sys2Proof/Certificates/Slice0/Obligations.lean ====
section
/-! DEFINITION. The statements for the provers. Each docstring names the rules of spec/ it formalises; a statement that rests on a decision of the
spec (D<n>), on a passage it marks as general knowledge, or on a log entry says so. -/

open Sys2Proof Sys2Proof.Machine

/-! ### Encoding -/

/-- Decoding the word of an instruction gives the instruction, with every operand at every value (30_encoding.md sections 1 and 2).
The secondary codes and field places are the spec's general knowledge (G1, G3; log entry 17). -/
def Obligations.DecodeOfEncodeIsTheInstruction : Prop :=
  ∀ i : Instr, decodeWord (encode i) = .ok i

/-- A word that decodes is, but for the bits its decoding ignores, the word of its instruction (30_encoding.md R73, R76, R80; decision D14).
That `encode` writes an ignored bit as 0 is the model's choice (log entry 18). -/
def Obligations.EncodeOfDecodeClearsIgnoredBits : Prop :=
  ∀ (w : Word) (i : Instr), decodeWord w = .ok i → encode i = w &&& ~~~ignoredBits w

/-- Decoding is total: a word is invalid exactly when 30_encoding.md R81 lists it, and every other word is one instruction
(R81, R83; decisions D14, D15). -/
def Obligations.InvalidWordsAreExactlyTheListedOnes : Prop :=
  ∀ w : Word, (wellFormedWord w = false ∧ decodeWord w = .error (.invalidOpcode w)) ∨
    (wellFormedWord w = true ∧ ∃ i, decodeWord w = .ok i)

/-- Group 0 selects by the low byte, whatever bits 11:8 hold (40_cycle_and_dispatch.md R105), and the groups with no secondary selector by the
primary group alone (R109; decisions D14, D15; the skip polarity is general knowledge, G2). -/
def Obligations.PrimaryDispatch : Prop :=
  ∀ w : Word,
    (fieldG w = 0x0#4 → decodeWord w =
      if fieldNN w = 0xE0#8 then .ok .cls else if fieldNN w = 0xEE#8 then .ok .ret else .error (.invalidOpcode w)) ∧
    (fieldG w = 0x1#4 → decodeWord w = .ok (.jp (fieldNNN w))) ∧
    (fieldG w = 0x2#4 → decodeWord w = .ok (.call (fieldNNN w))) ∧
    (fieldG w = 0x3#4 → decodeWord w = .ok (.seImm (fieldX w) (fieldNN w))) ∧
    (fieldG w = 0x4#4 → decodeWord w = .ok (.sneImm (fieldX w) (fieldNN w))) ∧
    (fieldG w = 0x5#4 → decodeWord w = .ok (.seReg (fieldX w) (fieldY w))) ∧
    (fieldG w = 0x6#4 → decodeWord w = .ok (.ldImm (fieldX w) (fieldNN w))) ∧
    (fieldG w = 0x7#4 → decodeWord w = .ok (.addImm (fieldX w) (fieldNN w))) ∧
    (fieldG w = 0x9#4 → decodeWord w = .ok (.sneReg (fieldX w) (fieldY w))) ∧
    (fieldG w = 0xA#4 → decodeWord w = .ok (.ldI (fieldNNN w))) ∧
    (fieldG w = 0xB#4 → decodeWord w = .ok (.jpV0 (fieldNNN w))) ∧
    (fieldG w = 0xC#4 → decodeWord w = .ok (.rnd (fieldX w) (fieldNN w))) ∧
    (fieldG w = 0xD#4 → decodeWord w = .ok (.drw (fieldX w) (fieldY w) (fieldN w)))

/-- Words of every family that the spec writes out decode to what they stand for: 95_test_vectors.md V1 (0AE0, 0FEE, 1ABC, 5AB3, FF1E, 0000, 800F), E1 (6005), E2 (2350),
E4 (D001), V4 (F265) and V6 (E19E), and the example of 42_load_and_alu.md R148 (8206). -/
def Obligations.WrittenOutWordsDecode : Prop :=
  decodeWord 0x0AE0 = .ok .cls ∧ decodeWord 0x0FEE = .ok .ret ∧ decodeWord 0x1ABC = .ok (.jp 0xABC) ∧
  decodeWord 0x2350 = .ok (.call 0x350) ∧ decodeWord 0x5AB3 = .ok (.seReg 0xA 0xB) ∧
  decodeWord 0x6005 = .ok (.ldImm 0 0x05) ∧ decodeWord 0x8206 = .ok (.shr 2 0) ∧
  decodeWord 0xD001 = .ok (.drw 0 0 1) ∧ decodeWord 0xE19E = .ok (.skp 1) ∧
  decodeWord 0xFF1E = .ok (.addI 0xF) ∧ decodeWord 0xF265 = .ok (.load 2) ∧
  decodeWord 0x0000 = .error (.invalidOpcode 0x0000) ∧ decodeWord 0x800F = .error (.invalidOpcode 0x800F)

/-- The byte at `pc` is bits 15:8 of the fetched word and the byte at `pc + 1` bits 7:0 (20_memory.md R51). -/
def Obligations.FetchIsBigEndian : Prop :=
  ∀ s : State, ∃ w, s.fetched.ir = some w ∧ w.extractLsb' 8 8 = s.readByte s.pc.toNat ∧
    w.extractLsb' 0 8 = s.readByte (s.pc.toNat + 1)

/-! ### Registers, memory, load and reset -/

/-- Every register reads as the last value written to it, a write touches no other register, and the fields `X` and `Y` of a word are its bits
11:8 and 7:4, so that they name all sixteen registers (10_state.md R20). -/
def Obligations.RegisterReadsAsLastWritten : Prop :=
  (∀ (s : State) (r q : RegIdx) (b : Byte), (s.setV r b).getV q = if q = r then b else s.getV q) ∧
  (∀ w : Word, (fieldX w).val = w.toNat / 0x100 % 16 ∧ (fieldY w).val = w.toNat / 0x10 % 16)

/-- Reading a byte returns the last value written there: a write changes that byte of memory and no other (20_memory.md R55). -/
def Obligations.MemoryReadsAsLastWritten : Prop :=
  ∀ (s : State) (a c : Nat) (b : Byte), Memory.wf s.cfg s.mem → a < 0x1000 →
    (s.writeByte a b).readByte c = if c = a then b else s.readByte c

/-- The program load puts byte `k` at `0x200 + k` and changes nothing else, or refuses a stream of more than 3584 bytes (20_memory.md R64). -/
def Obligations.ProgramLoadFillsFromTheProgramBase : Prop :=
  ∀ (s : State) (bytes : List Byte), Memory.wf s.cfg s.mem →
    (bytes.length ≤ 0xE00 → ∃ t, loadProgram bytes s = .ok t ∧
      (∀ (k : Nat) (hk : k < bytes.length), t.readByte (0x200 + k) = bytes[k]) ∧
      (∀ a, a < 0x200 ∨ 0x200 + bytes.length ≤ a → t.readByte a = s.readByte a) ∧
      t = { s with mem := t.mem }) ∧
    (0xE00 < bytes.length → loadProgram bytes s = .error (.streamTooLong bytes.length))

/-- Construction leaves every piece of state at the value of 10_state.md R37, for any parameters (decisions D8, D26, D27, D28, D37), and memory reads as the font at
`FONT_BASE` and 0x00 elsewhere. Under `Unwritten`, where R37 gives the registers no value, the 0 is the model's placeholder behind clear marks (log entry 10). The fields
that are the model's own are empty (log entries 4, 5, 7 and 8), and the parameters are those given (log entry 1). -/
def Obligations.ConstructionLeavesTheResetValues : Prop :=
  ∀ cfg : Config,
    (let s := State.construct cfg
     s.pc = 0x200 ∧ s.execState = .running ∧ (∀ r, s.getV r = 0) ∧ s.index = 0 ∧ s.stack = [] ∧ s.dt = 0 ∧ s.st = 0 ∧
     s.div = cfg.timerDivider ∧ (∀ k, s.keyDown k = false) ∧ (∀ col row, Display.get s.disp col row = false) ∧
     s.dirty = false ∧ s.audio = false ∧ (∀ r, s.vWritten[(r : RegIdx)] = false) ∧ s.indexWritten = false ∧
     (∀ (d : Fin 16) (k : Fin 5), s.readByte (cfg.fontBaseAddr + 5 * d.val + k.val) = cfg.fontData[d][k]) ∧
     (∀ a, a < cfg.fontBaseAddr ∨ cfg.fontBaseAddr + 80 ≤ a → s.readByte a = 0x00) ∧
     s.cfg = cfg ∧ s.ir = none ∧ s.events = [] ∧ s.randomInputs = [] ∧ s.draws = 0) ∧
    State.reset = State.construct Config.default

/-! ### The cycle -/

/-- When the word at `pc` decodes to `i` and is executed, the step is `exec i` after the fetch (the word latched, `pc` moved past it), followed
by the timer tick unless `i` faulted (40_cycle_and_dispatch.md R101, R102, R104; decisions D3, D4, D5). -/
def Obligations.StepRunsTheDecodedInstruction : Prop :=
  ∀ (s : State) (i : Instr), Executes s i →
    ∃ t, exec i { s with ir := some (s.readWord s.pc.toNat), pc := s.pc + 2 } = .next t ∧
      step s = .next (if t.isFaulted then t else timerTick t)

/-- An invalid word raises `InvalidOpcode(w)` and has no other effect: no register, memory, stack or display write, and no timer tick (40_cycle_and_dispatch.md R110).
The fault is a next state (decision D1, log entry 6) whose snapshot holds what 60_exceptions.md R223 lists (decision D31) and the two mark fields (log entry 26); the
fetched word stays in the model's own field `ir` (log entry 7). -/
def Obligations.InvalidWordRaisesInvalidOpcode : Prop :=
  ∀ (s : State) (w : Word), s.execState = .running → s.pc.toNat + 2 < 0x1000 → s.pcMisaligned = false →
    w = s.readWord s.pc.toNat → decodeWord w = .error (.invalidOpcode w) →
    step s = .next { s with
      ir := some w
      pc := s.pc + 2
      execState := .faulted (.invalidOpcode w)
        { stack := s.stack, pc := s.pc + 2, index := s.index, indexWritten := s.indexWritten, v := s.v,
          vWritten := s.vWritten, word := some w } }

/-- The core enters Halted exactly in a cycle that starts Running with `pc ≥ 0xFFE`; that cycle leaves everything but `exec` as it was, except
that from 0xFFE the fetch has moved `pc` to 0x1000 (40_cycle_and_dispatch.md R101, R117; decisions D3, D4, D6). -/
def Obligations.HaltsExactlyAtTheTopOfMemory : Prop :=
  ∀ s : State, s.execState = .running →
    (0xFFF ≤ s.pc.toNat → step s = .next { s with execState := .halted }) ∧
    (s.pc.toNat = 0xFFE → step s = .next { s with
      execState := .halted, pc := 0x1000, ir := some (s.readWord 0xFFE) }) ∧
    (s.pc.toNat < 0xFFE → ∀ t, step s = .next t → t.execState ≠ .halted)

/-- A cycle that starts Halted changes nothing and returns `Halted` (40_cycle_and_dispatch.md R111). -/
def Obligations.HaltedCycleChangesNothing : Prop :=
  ∀ s : State, s.execState = .halted → step s = .next s ∧ callResult s = some .halted

/-- A faulted core has no next state; a call returns the same fault (40_cycle_and_dispatch.md R112; decision D1, log entry 6). -/
def Obligations.FaultedCoreHasNoStep : Prop :=
  ∀ (s : State) (kind : FaultKind) (snap : Snapshot), s.execState = .faulted kind snap →
    step s = .fault (.alreadyFaulted kind snap) ∧ callResult s = some (.fault kind snap)

/-- A cycle that starts AwaitingKey fetches nothing: with no latch set it only ticks; with some set it writes the lowest one's index to the
register, returns to Running and ticks (40_cycle_and_dispatch.md R113; decision D7). -/
def Obligations.AwaitingKeyResolvesToTheLowestKey : Prop :=
  ∀ (s : State) (r : RegIdx), s.execState = .awaitingKey r →
    ((∀ k : Fin 16, s.keys[k] = false) → step s = .next (timerTick s)) ∧
    (∀ k : Fin 16, s.keys[k] = true → (∀ j : Fin 16, j < k → s.keys[j] = false) →
      step s = .next (timerTick { s.setV r (BitVec.ofNat 8 k.val) with execState := .running }))

/-- `LowestPressed()` is the smallest key whose latch is true, and there is none only when no latch is true (45_timers_and_keys.md R207). -/
def Obligations.LowestPressedIsTheSmallestLatch : Prop :=
  ∀ s : State,
    (∀ k : Fin 16, s.lowestPressed = some k ↔ s.keys[k] = true ∧ ∀ j : Fin 16, s.keys[j] = true → k ≤ j) ∧
    (s.lowestPressed = none ↔ ∀ j : Fin 16, s.keys[j] = false)

/-- The transitions of the execution state are exactly those of 40_cycle_and_dispatch.md R116 (decisions D1, D3, D7). -/
def Obligations.ExecutionStateTransitions : Prop :=
  ∀ s t : State, step s = .next t →
    match s.execState with
    | .running => t.execState = .running ∨ t.execState = .halted ∨ t.isFaulted = true ∨
        ∃ x, t.execState = .awaitingKey x ∧ Executes s (.ldVxK x) ∧ ∀ k : Fin 16, s.keys[k] = false
    | .awaitingKey r => (t.execState = .awaitingKey r ∧ ∀ k : Fin 16, s.keys[k] = false) ∨
        (t.execState = .running ∧ ∃ k : Fin 16, s.keys[k] = true)
    | .halted => t.execState = .halted
    | .faulted _ _ => False

/-- The timer ticks in a cycle that starts Running and neither halts nor faults, and in every cycle that starts AwaitingKey, and in no other
(40_cycle_and_dispatch.md R114; decisions D6, D7), so the divider counts exactly those cycles and reloads from 1 (decision D8). That it also reloads from 0, which no run
reaches, is the model's choice (log entry 24). -/
def Obligations.DividerCountsTheTickingCycles : Prop :=
  ∀ s t : State, step s = .next t →
    ((s.execState = .running ∧ t.isFaulted = false ∧ t.execState ≠ .halted ∨ ∃ r, s.execState = .awaitingKey r) →
      t.div = if s.div = 1 ∨ s.div = 0 then s.cfg.timerDivider else s.div - 1) ∧
    (¬ (s.execState = .running ∧ t.isFaulted = false ∧ t.execState ≠ .halted ∨ ∃ r, s.execState = .awaitingKey r) →
      t.div = s.div ∧ t.dt = s.dt ∧ t.st = s.st ∧ t.audio = s.audio ∧ t.events = s.events)

/-- The timer tick (60_exceptions.md R228; decision D8): the counters fall by one, saturating at 0, only when the divider reaches 0; the sound
counter's step from exactly 1 to 0 turns the gate off and emits the stop. -/
def Obligations.TimerTickRule : Prop :=
  ∀ s : State, 1 ≤ s.div →
    (2 ≤ s.div → timerTick s = { s with div := s.div - 1 }) ∧
    (s.div = 1 → ∃ t, timerTick s = t ∧ t.div = s.cfg.timerDivider ∧ t.dt.toNat = s.dt.toNat - 1 ∧
      t.st.toNat = s.st.toNat - 1 ∧
      (s.st.toNat = 1 → t.audio = false ∧ t.events = s.events ++ [.stop]) ∧
      (s.st.toNat ≠ 1 → t.audio = s.audio ∧ t.events = s.events) ∧
      t = { s with div := t.div, dt := t.dt, st := t.st, audio := t.audio, events := t.events })

/-- The cadence: after `k` ticks a counter has fallen by the number of times the divider reached 0, saturating at 0, and a sounding gate is on
for exactly the ticks before the sound counter reaches 0 (60_exceptions.md R228, 70_reset_and_hazards.md R255; decision D8). With divider 4 the
threshold lies between 4n − 3 and 4n. -/
def Obligations.CountersFallOncePerDividerPeriod : Prop :=
  ∀ (s : State) (k : Nat), 1 ≤ s.div → s.div ≤ s.cfg.timerDivider →
    (timerTick^[k] s).dt.toNat = s.dt.toNat - (k + s.cfg.timerDivider - s.div) / s.cfg.timerDivider ∧
    (timerTick^[k] s).st.toNat = s.st.toNat - (k + s.cfg.timerDivider - s.div) / s.cfg.timerDivider ∧
    (s.st ≠ 0 → s.audio = true →
      ((timerTick^[k] s).audio = true ↔ k < s.cfg.timerDivider * (s.st.toNat - 1) + s.div))

/-- A Running cycle raises `MisalignedPc` only under `OddPcPolicy = Fault` and only at an odd `pc`: under `Fetch`, or at an even `pc`, no step raises it. Under `Fault` an odd `pc`
raises it before the fetch, but after the halt check: 0xFFF or more halts, even if odd (20_memory.md R53, 60_exceptions.md R225; decisions D1, D3, D5, D34; log entries 6 and 26). -/
def Obligations.OddPcFaultsOnlyUnderTheFaultPolicy : Prop :=
  ∀ s : State, s.execState = .running →
    (s.cfg.oddPcPolicy = .fetch ∨ s.pc.toNat % 2 = 0 → s.pcMisaligned = false ∧
      ∀ (t : State) (kind : FaultKind) (snap : Snapshot), step s = .next t → t.execState = .faulted kind snap →
        kind.code ≠ 7) ∧
    (s.cfg.oddPcPolicy = .fault → s.pc.toNat % 2 = 1 → s.pc.toNat + 2 ≤ 0x1000 →
      step s = .next { s with execState := .faulted (.misalignedPc s.pc) (s.snapshot none) }) ∧
    (0x1000 < s.pc.toNat + 2 → step s = .next { s with execState := .halted })

/-- Faults are precise: a cycle that raises changes nothing but `exec` and what the fetch did, and the snapshot records the call stack, `pc`, `I`,
the registers and the word as they then are, with no word only for `MisalignedPc` (60_exceptions.md R222, R223, R224; decisions D1, D31). -/
def Obligations.FaultsArePrecise : Prop :=
  ∀ (s t : State) (kind : FaultKind) (snap : Snapshot), s.execState = .running → step s = .next t →
    t.execState = .faulted kind snap →
    t = { s with execState := .faulted kind snap, pc := t.pc, ir := t.ir } ∧
    snap.stack = s.stack ∧ snap.pc = t.pc ∧ snap.index = s.index ∧ snap.v = s.v ∧
    ((kind = .misalignedPc s.pc ∧ t.pc = s.pc ∧ snap.word = none) ∨
     (kind.code ≠ 7 ∧ t.pc = s.pc + 2 ∧ snap.word = some (s.readWord s.pc.toNat)))

/-- The faults an instruction can raise are those 60_exceptions.md R221 lists for it, and `UnwrittenRegister` only under
`ResetRegisterPolicy = Unwritten`, for a register it reads that was never written (R221; decisions D18, D21, D23, D25, D26). -/
def Obligations.FaultKindsOfEachInstruction : Prop :=
  ∀ (i : Instr) (s t : State) (kind : FaultKind) (snap : Snapshot), s.isFaulted = false → exec i s = .next t →
    t.execState = .faulted kind snap →
    kind.code ∈ i.faultCodes ∨
    (s.cfg.resetRegisterPolicy = .unwritten ∧
      ∃ r ∈ i.reads s.cfg, s.canRead r = false ∧ kind = .unwrittenRegister r)

/-- The first unwritten register an instruction reads, in pseudocode order, is the one reported, before any effect (10_state.md R38; decision D26,
log entries 11 and 12). FX55 checks its range once `I` is read, before it reads `V[0]`. -/
def Obligations.FirstUnwrittenRegisterReadFaults : Prop :=
  ∀ (i : Instr) (s : State) (r : RegName), (i.reads s.cfg).find? (fun q => !s.canRead q) = some r →
    (∀ x, i = .dump x → r ≠ 16 → s.index.toNat + x.val ≤ 0xFFF) →
    exec i s = .next { s with execState := .faulted (.unwrittenRegister r) (s.snapshot s.ir) }

/-! ### Invariants and whole-machine rules -/

/-- Every step keeps the invariant: canonical memory, at most 16 return addresses, each at most 0xFFF, `pc` at most 0x10FE, the divider in its range,
the gate as the last event left it and on while the sound counter runs, a faulted core as its snapshot says (10_state.md R26, R27, R29, R33; 60_exceptions.md R229). -/
def Obligations.StepKeepsTheInvariant : Prop :=
  ∀ s t : State, Invariant s → step s = .next t → Invariant t

/-- The invariant holds of a core as constructed, and of `State.reset`. -/
def Obligations.ConstructionMeetsTheInvariant : Prop :=
  (∀ cfg : Config, cfg.wellFormed → Invariant (State.construct cfg)) ∧ Invariant State.reset

/-- The program load and every host action keep the invariant (60_exceptions.md R236). -/
def Obligations.HostKeepsTheInvariant : Prop :=
  (∀ (s t : State) (bytes : List Byte), Invariant s → loadProgram bytes s = .ok t → Invariant t) ∧
  (∀ (s : State) (a : HostAction), Invariant s → Invariant (a.apply s))

/-- The key latches are set and cleared by the host alone: no cycle writes them, and a press or release of `k` writes latch `k` and no other (60_exceptions.md R232, R236).
They are read by EX9E, EXA1, FX0A and the AwaitingKey cycle alone: no other instruction, and no other cycle, depends on them (10_state.md R31). -/
def Obligations.OnlyTheHostWritesTheKeyLatches : Prop :=
  (∀ s t : State, step s = .next t → t.keys = s.keys) ∧
  (∀ (i : Instr) (s t : State) (keys : Vector Bool 16), (∀ x, i ≠ .skp x) → (∀ x, i ≠ .sknp x) → (∀ x, i ≠ .ldVxK x) →
    exec i s = .next t → exec i { s with keys := keys } = .next { t with keys := keys }) ∧
  (∀ (s t : State) (keys : Vector Bool 16), (∀ x, ¬ Executes s (.skp x)) → (∀ x, ¬ Executes s (.sknp x)) →
    (∀ x, ¬ Executes s (.ldVxK x)) → (∀ r, s.execState ≠ .awaitingKey r) →
    step s = .next t → step { s with keys := keys } = .next { t with keys := keys }) ∧
  (∀ (s : State) (k : Fin 16) (j : Nat), (keyPressed k.val s).keyDown j = (decide (j = k.val) || s.keyDown j)) ∧
  (∀ (s : State) (k : Fin 16) (j : Nat), (keyReleased k.val s).keyDown j = (decide (j ≠ k.val) && s.keyDown j))

/-- The buffer changes only by the full clear of CLS and the XOR blit of DXYN, which also set the dirty flag; the core never clears the flag, and of the host's
actions only the acknowledgement does (10_state.md R32; decision D20 for the blit's clipping). -/
def Obligations.OnlyClearAndDrawWriteTheDisplay : Prop :=
  (∀ s t : State, step s = .next t → (s.dirty = true → t.dirty = true) ∧
    ((t.disp ≠ s.disp ∨ t.dirty ≠ s.dirty) →
      Executes s .cls ∨ ∃ x y n, Executes s (.drw x y n)) ∧
    (Executes s .cls → t.dirty = true ∧ ∀ col row, Display.get t.disp col row = false) ∧
    (∀ x y n, Executes s (.drw x y n) → t.isFaulted = false → t.dirty = true ∧
      ∀ col row, col < 64 → row < 32 → Display.get t.disp col row =
        (Display.get s.disp col row ^^ spriteBit s (s.getV x).toNat (s.getV y).toNat n.toNat col row))) ∧
  (∀ (s : State) (a : HostAction), (a.apply s).disp = s.disp ∧
    (a.apply s).dirty = if a = .acknowledgeDisplay then false else s.dirty)

/-- Every cycle appends its events, and the gate is as the last of them says, or as it was if there is none (10_state.md R33, 60_exceptions.md R229;
the event list is the model's own, log entry 8). -/
def Obligations.GateFollowsTheEvents : Prop :=
  ∀ s t : State, step s = .next t → ∃ es : List AudioEvent, t.events = s.events ++ es ∧
    t.audio = match es.getLast? with
      | none => s.audio
      | some .start => true
      | some .stop => false

/-- Nothing the core does depends on the gate, the dirty flag, the events emitted, or an audio sink being attached: two cores that differ only there
take the same step and emit the same events (10_state.md R33; 60_exceptions.md R229). -/
def Obligations.OutputsNeverInfluenceTheCore : Prop :=
  ∀ s t : State, SameButOutputs s t →
    (∀ s', step s = .next s' → ∃ t', step t = .next t' ∧ SameButOutputs s' t' ∧
      ∃ es, s'.events = s.events ++ es ∧ t'.events = t.events ++ es) ∧
    (∀ f, step s = .fault f → step t = .fault f)

/-- How `pc` moves (10_state.md R25): past the word at the fetch, by a further 2 in a taken skip, to the target in 1NNN, 2NNN, BNNN and 00EE; not at all in
an AwaitingKey cycle; a Running cycle at 0xFFE or more halts; and no value reaches 0x10FF, so the additions never wrap
(decisions D3 and D4 for the halt, D16 for BNNN; general knowledge G2 for the skips' polarity and G5). -/
def Obligations.HowThePcMoves : Prop :=
  (∀ (s t : State) (i : Instr), Invariant s → Executes s i → step s = .next t → t.isFaulted = false →
    t.pc.toNat < 0x10FF ∧
    match i with
    | .jp nnn => t.pc.toNat = nnn.toNat
    | .call nnn => t.pc.toNat = nnn.toNat
    | .jpV0 nnn => t.pc.toNat = nnn.toNat + (s.getV 0).toNat
    | .ret => s.stack.getLast? = some t.pc
    | .seImm x nn => t.pc.toNat = s.pc.toNat + if s.getV x = nn then 4 else 2
    | .sneImm x nn => t.pc.toNat = s.pc.toNat + if s.getV x ≠ nn then 4 else 2
    | .seReg x y => t.pc.toNat = s.pc.toNat + if s.getV x = s.getV y then 4 else 2
    | .sneReg x y => t.pc.toNat = s.pc.toNat + if s.getV x ≠ s.getV y then 4 else 2
    | .skp x => t.pc.toNat = s.pc.toNat + if s.keyDown (s.getV x).toNat then 4 else 2
    | .sknp x => t.pc.toNat = s.pc.toNat + if s.keyDown (s.getV x).toNat then 2 else 4
    | _ => t.pc.toNat = s.pc.toNat + 2) ∧
  (∀ (s t : State) (r : RegIdx), s.execState = .awaitingKey r → step s = .next t → t.pc = s.pc) ∧
  (∀ s t : State, s.execState = .running → 0xFFE ≤ s.pc.toNat → step s = .next t → t.execState = .halted)

/-! ### Control transfer -/

/-- RET pops the most recently pushed address into `pc`; on an empty stack it raises `StackUnderflow` (41_control_flow.md R120; decision D18). -/
def Obligations.ReturnPopsTheStack : Prop :=
  ∀ s : State,
    (∀ rest a, s.stack = rest ++ [a] → exec .ret s = .next { s with pc := a, stack := rest }) ∧
    (s.stack = [] → exec .ret s = .next { s with execState := .faulted .stackUnderflow (s.snapshot s.ir) })

/-- JP NNN, the word `1NNN`, replaces `pc` by `zext_16(NNN)` and changes nothing else (41_control_flow.md R121). -/
def Obligations.JumpReplacesThePc : Prop :=
  ∀ (nnn : Addr12) (s : State), decodeWord (0x1#4 ++ nnn) = .ok (.jp nnn) ∧
    ∃ t, exec (.jp nnn) s = .next t ∧ t.pc.toNat = nnn.toNat ∧ t = { s with pc := t.pc }

/-- CALL NNN, the word `2NNN`, pushes `pc` and jumps; at depth 16 it raises `StackOverflow` and changes nothing (41_control_flow.md R122).
The fault is a next state with the snapshot of 60_exceptions.md R223 (decisions D1, D31; log entry 6), which holds the fetched word `ir` (log entry 7) and the marks (log entry 26). -/
def Obligations.CallPushesTheReturnAddress : Prop :=
  ∀ (nnn : Addr12) (s : State), decodeWord (0x2#4 ++ nnn) = .ok (.call nnn) ∧
    (s.stack.length < 16 → ∃ t, exec (.call nnn) s = .next t ∧ t.stack = s.stack ++ [s.pc] ∧ t.pc.toNat = nnn.toNat ∧
      t = { s with pc := t.pc, stack := t.stack }) ∧
    (s.stack.length = 16 →
      exec (.call nnn) s = .next { s with execState := .faulted .stackOverflow (s.snapshot s.ir) })

/-- The four register skips add 2 to `pc` exactly when their condition holds, and change nothing else (41_control_flow.md R123 to R126; the polarity is the spec's general
knowledge, G2). -/
def Obligations.SkipsCompareRegisters : Prop :=
  ∀ (s : State) (x y : RegIdx) (nn : Byte), s.canReadV x = true →
    exec (.seImm x nn) s = .next { s with pc := if s.getV x = nn then s.pc + 2 else s.pc } ∧
    exec (.sneImm x nn) s = .next { s with pc := if s.getV x = nn then s.pc else s.pc + 2 } ∧
    (s.canReadV y = true →
      exec (.seReg x y) s = .next { s with pc := if s.getV x = s.getV y then s.pc + 2 else s.pc } ∧
      exec (.sneReg x y) s = .next { s with pc := if s.getV x = s.getV y then s.pc else s.pc + 2 })

/-- BNNN jumps to `NNN + V[0]`, neither masked nor wrapped (41_control_flow.md R127; decision D16, general knowledge G5). -/
def Obligations.JumpWithOffsetAddsV0 : Prop :=
  ∀ (nnn : Addr12) (s : State), s.canReadV 0 = true →
    ∃ t, exec (.jpV0 nnn) s = .next t ∧ t.pc.toNat = nnn.toNat + (s.getV 0).toNat ∧ t = { s with pc := t.pc }

/-! ### Loads, arithmetic, random -/

/-- LD VX, NN, the word `6XNN`, writes `NN` to `V[X]`, and LD I, NNN, the word `ANNN`, writes `zext_16(NNN)` to `I`; nothing else changes
(42_load_and_alu.md R140; 43_index_and_memory.md R170). -/
def Obligations.ImmediateLoadsWriteTheirRegister : Prop :=
  ∀ (s : State) (x : RegIdx) (nn : Byte) (nnn : Addr12),
    (decodeWord (0x6#4 ++ regField x ++ nn) = .ok (.ldImm x nn) ∧
      ∃ t, exec (.ldImm x nn) s = .next t ∧ t.getV x = nn ∧ (∀ r, r ≠ x → t.getV r = s.getV r) ∧
        t = { s with v := t.v, vWritten := t.vWritten }) ∧
    (decodeWord (0xA#4 ++ nnn) = .ok (.ldI nnn) ∧
      ∃ t, exec (.ldI nnn) s = .next t ∧ t.index.toNat = nnn.toNat ∧
        t = { s with index := t.index, indexWritten := true })

/-- ADD VX, NN writes the sum modulo 256, and writes VF only under `AddImmWritesVF`, after the result; every other register keeps its value, VF among them when the parameter is
false and `X` is not F (42_load_and_alu.md R141; decisions D10, D12). -/
def Obligations.AddImmediateWrapsModulo256 : Prop :=
  ∀ (s : State) (x : RegIdx) (nn : Byte), s.canReadV x = true →
    ∃ t, exec (.addImm x nn) s = .next t ∧
      (s.cfg.addImmWritesVF = false → (t.getV x).toNat = ((s.getV x).toNat + nn.toNat) % 256 ∧
        ∀ r, r ≠ x → t.getV r = s.getV r) ∧
      (s.cfg.addImmWritesVF = true →
        t.getV VF = (if (s.getV x).toNat + nn.toNat > 255 then 1 else 0) ∧
        (x ≠ VF → (t.getV x).toNat = ((s.getV x).toNat + nn.toNat) % 256) ∧
        ∀ r, r ≠ x → r ≠ VF → t.getV r = s.getV r) ∧
      t = { s with v := t.v, vWritten := t.vWritten }

/-- LD VX, VY writes `V[Y]` to `V[X]`, and OR, AND and XOR write `V[X]` bit by bit; no other register changes, VF included (42_load_and_alu.md R142 to R145; decision D11; the slots are
general knowledge). -/
def Obligations.AssignAndLogicWriteOnlyTheResult : Prop :=
  ∀ (s : State) (x y : RegIdx), s.canReadV y = true →
    (decodeWord (0x8#4 ++ regField x ++ regField y ++ 0x0#4) = .ok (.ldReg x y) ∧
      ∃ t, exec (.ldReg x y) s = .next t ∧ t.getV x = s.getV y ∧ ∀ r, r ≠ x → t.getV r = s.getV r) ∧
    (s.canReadV x = true →
      (∃ t, exec (.orReg x y) s = .next t ∧ (∀ r, r ≠ x → t.getV r = s.getV r) ∧
        ∀ k, (t.getV x).getLsbD k = ((s.getV x).getLsbD k || (s.getV y).getLsbD k)) ∧
      (∃ t, exec (.andReg x y) s = .next t ∧ (∀ r, r ≠ x → t.getV r = s.getV r) ∧
        ∀ k, (t.getV x).getLsbD k = ((s.getV x).getLsbD k && (s.getV y).getLsbD k)) ∧
      (∃ t, exec (.xorReg x y) s = .next t ∧ (∀ r, r ≠ x → t.getV r = s.getV r) ∧
        ∀ k, (t.getV x).getLsbD k = ((s.getV x).getLsbD k ^^ (s.getV y).getLsbD k)))

/-- ADD VX, VY, the word `8XY4`, writes the sum modulo 256 to `V[X]` and then the carry to VF, so that with `X = F` the carry remains
(42_load_and_alu.md R146; decision D12; the slot is general knowledge). -/
def Obligations.AddWritesSumThenCarry : Prop :=
  ∀ (s : State) (x y : RegIdx), s.canReadV x = true → s.canReadV y = true →
    decodeWord (0x8#4 ++ regField x ++ regField y ++ 0x4#4) = .ok (.addReg x y) ∧
    ∃ t, exec (.addReg x y) s = .next t ∧
      (x ≠ VF → (t.getV x).toNat = ((s.getV x).toNat + (s.getV y).toNat) % 256) ∧
      t.getV VF = if (s.getV x).toNat + (s.getV y).toNat > 255 then 1 else 0

/-- SUB and SUBN, the words `8XY5` and `8XY7`, write the difference modulo 256 to `V[X]` and then the borrow to VF: 1 iff the subtraction underflowed
(42_load_and_alu.md R147, R149; decision D12; the slots are general knowledge). -/
def Obligations.SubtractWritesDifferenceThenBorrow : Prop :=
  ∀ (s : State) (x y : RegIdx), s.canReadV x = true → s.canReadV y = true →
    (decodeWord (0x8#4 ++ regField x ++ regField y ++ 0x5#4) = .ok (.subReg x y) ∧
     ∃ t, exec (.subReg x y) s = .next t ∧
      (x ≠ VF → ((t.getV x).toNat : Int) = (((s.getV x).toNat : Int) - (s.getV y).toNat) % 256) ∧
      t.getV VF = if (s.getV x).toNat < (s.getV y).toNat then 1 else 0) ∧
    (decodeWord (0x8#4 ++ regField x ++ regField y ++ 0x7#4) = .ok (.subnReg x y) ∧
     ∃ t, exec (.subnReg x y) s = .next t ∧
      (x ≠ VF → ((t.getV x).toNat : Int) = (((s.getV y).toNat : Int) - (s.getV x).toNat) % 256) ∧
      t.getV VF = if (s.getV y).toNat < (s.getV x).toNat then 1 else 0)

/-- SHR halves the shifted register's value into `V[X]` and leaves the bit shifted out in VF; SHL doubles it modulo 256 and leaves the raw high bit,
0x80 or 0x00, in VF; `ShiftSource` names the register read (42_load_and_alu.md R148, R150; decisions D12, D13). -/
def Obligations.ShiftsLeaveTheLostBitInVF : Prop :=
  ∀ (s : State) (x y src : RegIdx), src = (if s.cfg.shiftSource = .vx then x else y) → s.canReadV src = true →
    (∃ t, exec (.shr x y) s = .next t ∧ (x ≠ VF → (t.getV x).toNat = (s.getV src).toNat / 2) ∧
      (t.getV VF).toNat = (s.getV src).toNat % 2) ∧
    (∃ t, exec (.shl x y) s = .next t ∧ (x ≠ VF → (t.getV x).toNat = (s.getV src).toNat * 2 % 256) ∧
      t.getV VF = if (s.getV src).toNat ≥ 0x80 then 0x80 else 0x00)

/-- RND uses one draw: a byte the host lined up is masked by `NN` and consumed; with none lined up the byte is free, and only the mask is known
(42_load_and_alu.md R151; decision D19, general knowledge G6, log entry 4). -/
def Obligations.RandomIsAMaskedDraw : Prop :=
  ∀ (s : State) (x : RegIdx) (nn : Byte),
    (∀ b rest, s.randomInputs = b :: rest →
      ∃ t, exec (.rnd x nn) s = .next t ∧ t.getV x = b &&& nn ∧ t.randomInputs = rest ∧ t.draws = s.draws) ∧
    (s.randomInputs = [] →
      ∃ t, exec (.rnd x nn) s = .next t ∧ t.getV x &&& ~~~nn = 0 ∧ t.randomInputs = [] ∧ t.draws = s.draws + 1)

/-! ### Index and memory -/

/-- ADD I adds `X·0x100 + 0x1E` under `Imm12` or `V[X]` under `Vx`, exactly and unmasked, VF last and 1 iff the sum exceeds 0xFFF; a sum above 0xFFFF raises
`IndexOverflow` with that sum (43_index_and_memory.md R171, R172; decision D23, conflicts C5 and C6). -/
def Obligations.AddToIndexDetectsOverflow : Prop :=
  ∀ (s : State) (x : RegIdx) (sum : Nat), s.canReadIndex = true →
    (s.cfg.addIndexOperand = .vx → s.canReadV x = true) →
    sum = s.index.toNat + (if s.cfg.addIndexOperand = .imm12 then x.val * 0x100 + 0x1E else (s.getV x).toNat) →
    (sum ≤ 0xFFFF → ∃ t, exec (.addI x) s = .next t ∧ t.index.toNat = sum ∧
      t.getV VF = if sum > 0xFFF then 1 else 0) ∧
    (0xFFFF < sum →
      exec (.addI x) s = .next { s with execState := .faulted (.indexOverflow sum) (s.snapshot s.ir) })

/-- LD F, VX points `I` at glyph `V[X]`, five bytes a glyph from `FONT_BASE`; above 0xF the value of `I` is free and the instruction still completes
(43_index_and_memory.md R173, R174; decision D24, log entries 2 and 5). -/
def Obligations.FontAddressOfADigit : Prop :=
  ∀ (s : State) (x : RegIdx), s.canReadV x = true →
    ((s.getV x).toNat ≤ 0xF → ∃ t, exec (.ldF x) s = .next t ∧
      t.index.toNat = s.cfg.fontBaseAddr + 5 * (s.getV x).toNat) ∧
    (0xF < (s.getV x).toNat → ∃ t, exec (.ldF x) s = .next t ∧
      t = { s with index := t.index, indexWritten := true, draws := s.draws + 1 })

/-- LD B, VX stores the decimal digits of `V[X]`, hundreds at `I`; when a byte would lie above 0xFFF it raises `MemoryOutOfRange(I)` before any effect
(43_index_and_memory.md R175, R176, R180; decision D25, general knowledge G8). -/
def Obligations.BcdStoresThreeDigits : Prop :=
  ∀ (s : State) (x : RegIdx), s.canReadV x = true → s.canReadIndex = true →
    (Memory.wf s.cfg s.mem → s.index.toNat + 2 ≤ 0xFFF → ∃ t, exec (.ldB x) s = .next t ∧ t.index = s.index ∧
      (t.readByte s.index.toNat).toNat = (s.getV x).toNat / 100 ∧
      (t.readByte (s.index.toNat + 1)).toNat = (s.getV x).toNat / 10 % 10 ∧
      (t.readByte (s.index.toNat + 2)).toNat = (s.getV x).toNat % 10) ∧
    (0xFFF < s.index.toNat + 2 →
      exec (.ldB x) s = .next { s with execState := .faulted (.memoryOutOfRange s.index) (s.snapshot s.ir) })

/-- LD [I], VX stores `V[0]` to `V[X]` from `I` on and advances `I` by `X + 1`; out of range it raises `MemoryOutOfRange(I)` before any effect
(43_index_and_memory.md R177, R180; decision D25). -/
def Obligations.DumpStoresTheRegisters : Prop :=
  ∀ (s : State) (x : RegIdx), s.canReadIndex = true →
    (Memory.wf s.cfg s.mem → (∀ r, r ≤ x → s.canReadV r = true) → s.index.toNat + x.val ≤ 0xFFF →
      ∃ t, exec (.dump x) s = .next t ∧ t.index.toNat = s.index.toNat + x.val + 1 ∧
        ∀ r : RegIdx, r ≤ x → t.readByte (s.index.toNat + r.val) = s.getV r) ∧
    (0xFFF < s.index.toNat + x.val →
      exec (.dump x) s = .next { s with execState := .faulted (.memoryOutOfRange s.index) (s.snapshot s.ir) })

/-- LD VX, [I] loads `V[0]` to `V[X]` from `I` on and advances `I` by `X + 1`; out of range it raises `MemoryOutOfRange(I)` before any effect
(43_index_and_memory.md R178, R180; decision D25). -/
def Obligations.LoadReadsTheRegisters : Prop :=
  ∀ (s : State) (x : RegIdx), s.canReadIndex = true →
    (s.index.toNat + x.val ≤ 0xFFF →
      ∃ t, exec (.load x) s = .next t ∧ t.index.toNat = s.index.toNat + x.val + 1 ∧
        ∀ r : RegIdx, r ≤ x → t.getV r = s.readByte (s.index.toNat + r.val)) ∧
    (0xFFF < s.index.toNat + x.val →
      exec (.load x) s = .next { s with execState := .faulted (.memoryOutOfRange s.index) (s.snapshot s.ir) })

/-! ### Display -/

/-- CLS, the words `0?E0`, makes every cell false and the dirty flag true, and changes nothing else (44_display.md R190; decision D14). -/
def Obligations.ClearMakesEveryCellFalse : Prop :=
  (∀ w : Word, fieldG w = 0x0#4 → fieldNN w = 0xE0#8 → decodeWord w = .ok .cls) ∧
  ∀ s : State, ∃ t, exec .cls s = .next t ∧ (∀ col row, Display.get t.disp col row = false) ∧ t.dirty = true ∧
    t = { s with disp := t.disp, dirty := t.dirty }

/-- DXYN XORs the sprite's 1 bits into the buffer at `(V[X], V[Y])`, clipped at its edges, sets the dirty flag, leaves `I`, and writes VF last: 1 iff some 1 bit
landed on a set cell (44_display.md R191, R192, R194; decision D20, general knowledge G9, log entry 11). -/
def Obligations.DrawXorsTheClippedSprite : Prop :=
  ∀ (s : State) (x y : RegIdx) (n : Nibble), s.canReadV x = true → s.canReadV y = true →
    (n ≠ 0 → s.canReadIndex = true) →
    ∃ t, exec (.drw x y n) s = .next t ∧ t.dirty = true ∧ t.index = s.index ∧
      (∀ col row, col < 64 → row < 32 → Display.get t.disp col row =
        (Display.get s.disp col row ^^ spriteBit s (s.getV x).toNat (s.getV y).toNat n.toNat col row)) ∧
      (t.getV VF = 0 ∨ t.getV VF = 1) ∧
      (t.getV VF = 1 ↔ ∃ col row, col < 64 ∧ row < 32 ∧ Display.get s.disp col row = true ∧
        spriteBit s (s.getV x).toNat (s.getV y).toNat n.toNat col row = true)

/-- Drawing the same sprite twice restores the buffer, unless `X` or `Y` is F (44_display.md R193; decision D20). The second draw's VF is 1 iff a 1 bit of the
sprite lands in bounds on a cell that was clear before the first draw: what R191 gives, where R193's remark holds only if every such cell was clear (log entry 21;
conflict C1 corrects the same VF). -/
def Obligations.DrawingTwiceRestoresTheBuffer : Prop :=
  ∀ (s : State) (x y : RegIdx) (n : Nibble), x ≠ VF → y ≠ VF → s.canReadV x = true → s.canReadV y = true →
    (n ≠ 0 → s.canReadIndex = true) →
    ∃ t u, exec (.drw x y n) s = .next t ∧ exec (.drw x y n) t = .next u ∧ u.disp = s.disp ∧
      (u.getV VF = 0 ∨ u.getV VF = 1) ∧
      (u.getV VF = 1 ↔ ∃ col row, col < 64 ∧ row < 32 ∧ Display.get s.disp col row = false ∧
        spriteBit s (s.getV x).toNat (s.getV y).toNat n.toNat col row = true)

/-! ### Keys and timers -/

/-- SKP and SKNP skip as the latch of key `V[X]` says; above 0xF they raise `KeyIndexOutOfRange` (45_timers_and_keys.md R200, R201; decision D21, general
knowledge G1). -/
def Obligations.KeySkipsReadOneLatch : Prop :=
  ∀ (s : State) (x : RegIdx), s.canReadV x = true →
    (∀ k : Fin 16, (s.getV x).toNat = k.val →
      exec (.skp x) s = .next { s with pc := if s.keys[k] then s.pc + 2 else s.pc } ∧
      exec (.sknp x) s = .next { s with pc := if s.keys[k] then s.pc else s.pc + 2 }) ∧
    (0xF < (s.getV x).toNat →
      exec (.skp x) s = .next { s with execState := .faulted (.keyIndexOutOfRange (s.getV x)) (s.snapshot s.ir) } ∧
      exec (.sknp x) s = .next { s with execState := .faulted (.keyIndexOutOfRange (s.getV x)) (s.snapshot s.ir) })

/-- FX0A takes the lowest pressed key at once and stays in its state, or waits for register `X` with `pc` past the word (45_timers_and_keys.md R204; general
knowledge G1, decision D22). -/
def Obligations.KeyWaitResolvesOrWaits : Prop :=
  ∀ (s : State) (x : RegIdx),
    (∀ k : Fin 16, s.keys[k] = true → (∀ j : Fin 16, j < k → s.keys[j] = false) →
      ∃ t, exec (.ldVxK x) s = .next t ∧ (t.getV x).toNat = k.val ∧ t.execState = s.execState ∧ t.pc = s.pc) ∧
    ((∀ k : Fin 16, s.keys[k] = false) → exec (.ldVxK x) s = .next { s with execState := .awaitingKey x })

/-- FX07 reads the delay counter, FX15 sets it, and FX18 sets the sound counter: a nonzero value turns the gate on and emits a start, even if it is on; 0 emits
nothing and leaves the gate (45_timers_and_keys.md R203, R205, R206; decision D9, general knowledge G1). -/
def Obligations.TimerInstructionsMoveTheCounters : Prop :=
  ∀ (s : State) (x : RegIdx),
    (∃ t, exec (.ldVxDt x) s = .next t ∧ t.getV x = s.dt) ∧
    (s.canReadV x = true →
      (∃ t, exec (.ldDtVx x) s = .next t ∧ t.dt = s.getV x) ∧
      (∃ t, exec (.ldStVx x) s = .next t ∧ t.st = s.getV x ∧
        (s.getV x ≠ 0 → t.audio = true ∧ t.events = s.events ++ [.start]) ∧
        (s.getV x = 0 → t.audio = s.audio ∧ t.events = s.events)))

/-! ### Frames: what an instruction leaves alone, in every form and whether or not it faults -/

/-- Control transfer writes `pc`, and the call stack in RET and CALL, and nothing else (41_control_flow.md; 10_state.md R27). -/
def Obligations.FrameOfControlTransfer : Prop :=
  ∀ (s t : State) (x y : RegIdx) (nn : Byte) (nnn : Addr12),
    (exec .ret s = .next t ∨ exec (.call nnn) s = .next t → Frame { pc := true, stack := true } s t) ∧
    (exec (.jp nnn) s = .next t ∨ exec (.jpV0 nnn) s = .next t ∨ exec (.seImm x nn) s = .next t ∨
      exec (.sneImm x nn) s = .next t ∨ exec (.seReg x y) s = .next t ∨ exec (.sneReg x y) s = .next t →
      Frame { pc := true } s t)

/-- Loads and arithmetic write `V[X]`, and VF where the operation has a flag (7XNN only under `AddImmWritesVF`), and RND uses a draw; nothing else
(42_load_and_alu.md; 10_state.md R21, R22; decisions D10, D11). -/
def Obligations.FrameOfLoadsAndArithmetic : Prop :=
  ∀ (s t : State) (x y : RegIdx) (nn : Byte),
    (exec (.ldImm x nn) s = .next t ∨ exec (.ldReg x y) s = .next t ∨ exec (.orReg x y) s = .next t ∨
      exec (.andReg x y) s = .next t ∨ exec (.xorReg x y) s = .next t → Frame { regs := [x] } s t) ∧
    (exec (.addImm x nn) s = .next t →
      Frame { regs := if s.cfg.addImmWritesVF then [x, VF] else [x] } s t) ∧
    (exec (.addReg x y) s = .next t ∨ exec (.subReg x y) s = .next t ∨ exec (.subnReg x y) s = .next t ∨
      exec (.shr x y) s = .next t ∨ exec (.shl x y) s = .next t → Frame { regs := [x, VF] } s t) ∧
    (exec (.rnd x nn) s = .next t → Frame { regs := [x], draws := true } s t)

/-- ANNN and FX29 write `I` (FX29 may use a free value); FX1E writes `I` and VF; FX33 writes the three bytes from `I`; FX55 writes the `X + 1` bytes from `I` and
then `I`; FX65 writes `V[0]` to `V[X]` and `I`; nothing else (43_index_and_memory.md; 10_state.md R23). -/
def Obligations.FrameOfIndexAndMemory : Prop :=
  ∀ (s t : State) (x : RegIdx) (nnn : Addr12), Memory.wf s.cfg s.mem →
    (exec (.ldI nnn) s = .next t → Frame { index := true } s t) ∧
    (exec (.ldF x) s = .next t → Frame { index := true, draws := true } s t) ∧
    (exec (.addI x) s = .next t → Frame { index := true, regs := [VF] } s t) ∧
    (exec (.ldB x) s = .next t → Frame { memory := (List.range 3).map (dataAddr s.index) } s t) ∧
    (exec (.dump x) s = .next t →
      Frame { index := true, memory := (List.range (x.val + 1)).map (dataAddr s.index) } s t) ∧
    (exec (.load x) s = .next t → Frame { index := true, regs := regsUpTo x } s t)

/-- CLS writes the display; DXYN the display and VF; the key skips `pc`; FX07 and FX0A `V[X]`, FX0A also the execution state; FX15 `DT`; FX18 `ST` and the gate;
nothing else (44_display.md; 45_timers_and_keys.md). -/
def Obligations.FrameOfDisplayKeysAndTimers : Prop :=
  ∀ (s t : State) (x y : RegIdx) (n : Nibble),
    (exec .cls s = .next t → Frame { display := true } s t) ∧
    (exec (.drw x y n) s = .next t → Frame { display := true, regs := [VF] } s t) ∧
    (exec (.skp x) s = .next t ∨ exec (.sknp x) s = .next t → Frame { pc := true } s t) ∧
    (exec (.ldVxDt x) s = .next t → Frame { regs := [x] } s t) ∧
    (exec (.ldVxK x) s = .next t → Frame { regs := [x], waits := true } s t) ∧
    (exec (.ldDtVx x) s = .next t → Frame { dt := true } s t) ∧
    (exec (.ldStVx x) s = .next t → Frame { st := true, gate := true } s t)
end

