-- ==== Sys2Proof/Laws/State.lean ====
section
/-! SUPPORT. What each field holds after each update of the state: one lemma per field per update, all by `rfl`. -/

namespace Sys2Proof.Machine

variable (s : State)

/-! ### `setV` -/

@[simp] theorem State.setV_v (r : RegIdx) (b : Byte) : (s.setV r b).v = s.v.set r b := rfl
@[simp] theorem State.setV_vWritten (r : RegIdx) (b : Byte) : (s.setV r b).vWritten = s.vWritten.set r true := rfl
@[simp] theorem State.setV_index (r : RegIdx) (b : Byte) : (s.setV r b).index = s.index := rfl
@[simp] theorem State.setV_indexWritten (r : RegIdx) (b : Byte) : (s.setV r b).indexWritten = s.indexWritten := rfl
@[simp] theorem State.setV_pc (r : RegIdx) (b : Byte) : (s.setV r b).pc = s.pc := rfl
@[simp] theorem State.setV_stack (r : RegIdx) (b : Byte) : (s.setV r b).stack = s.stack := rfl
@[simp] theorem State.setV_dt (r : RegIdx) (b : Byte) : (s.setV r b).dt = s.dt := rfl
@[simp] theorem State.setV_st (r : RegIdx) (b : Byte) : (s.setV r b).st = s.st := rfl
@[simp] theorem State.setV_div (r : RegIdx) (b : Byte) : (s.setV r b).div = s.div := rfl
@[simp] theorem State.setV_execState (r : RegIdx) (b : Byte) : (s.setV r b).execState = s.execState := rfl
@[simp] theorem State.setV_keys (r : RegIdx) (b : Byte) : (s.setV r b).keys = s.keys := rfl
@[simp] theorem State.setV_disp (r : RegIdx) (b : Byte) : (s.setV r b).disp = s.disp := rfl
@[simp] theorem State.setV_dirty (r : RegIdx) (b : Byte) : (s.setV r b).dirty = s.dirty := rfl
@[simp] theorem State.setV_audio (r : RegIdx) (b : Byte) : (s.setV r b).audio = s.audio := rfl
@[simp] theorem State.setV_mem (r : RegIdx) (b : Byte) : (s.setV r b).mem = s.mem := rfl
@[simp] theorem State.setV_cfg (r : RegIdx) (b : Byte) : (s.setV r b).cfg = s.cfg := rfl
@[simp] theorem State.setV_ir (r : RegIdx) (b : Byte) : (s.setV r b).ir = s.ir := rfl
@[simp] theorem State.setV_events (r : RegIdx) (b : Byte) : (s.setV r b).events = s.events := rfl
@[simp] theorem State.setV_randomInputs (r : RegIdx) (b : Byte) : (s.setV r b).randomInputs = s.randomInputs := rfl
@[simp] theorem State.setV_draws (r : RegIdx) (b : Byte) : (s.setV r b).draws = s.draws := rfl

/-! ### `setIndex` -/

@[simp] theorem State.setIndex_v (w : Word) : (s.setIndex w).v = s.v := rfl
@[simp] theorem State.setIndex_vWritten (w : Word) : (s.setIndex w).vWritten = s.vWritten := rfl
@[simp] theorem State.setIndex_index (w : Word) : (s.setIndex w).index = w := rfl
@[simp] theorem State.setIndex_indexWritten (w : Word) : (s.setIndex w).indexWritten = true := rfl
@[simp] theorem State.setIndex_pc (w : Word) : (s.setIndex w).pc = s.pc := rfl
@[simp] theorem State.setIndex_stack (w : Word) : (s.setIndex w).stack = s.stack := rfl
@[simp] theorem State.setIndex_dt (w : Word) : (s.setIndex w).dt = s.dt := rfl
@[simp] theorem State.setIndex_st (w : Word) : (s.setIndex w).st = s.st := rfl
@[simp] theorem State.setIndex_div (w : Word) : (s.setIndex w).div = s.div := rfl
@[simp] theorem State.setIndex_execState (w : Word) : (s.setIndex w).execState = s.execState := rfl
@[simp] theorem State.setIndex_keys (w : Word) : (s.setIndex w).keys = s.keys := rfl
@[simp] theorem State.setIndex_disp (w : Word) : (s.setIndex w).disp = s.disp := rfl
@[simp] theorem State.setIndex_dirty (w : Word) : (s.setIndex w).dirty = s.dirty := rfl
@[simp] theorem State.setIndex_audio (w : Word) : (s.setIndex w).audio = s.audio := rfl
@[simp] theorem State.setIndex_mem (w : Word) : (s.setIndex w).mem = s.mem := rfl
@[simp] theorem State.setIndex_cfg (w : Word) : (s.setIndex w).cfg = s.cfg := rfl
@[simp] theorem State.setIndex_ir (w : Word) : (s.setIndex w).ir = s.ir := rfl
@[simp] theorem State.setIndex_events (w : Word) : (s.setIndex w).events = s.events := rfl
@[simp] theorem State.setIndex_randomInputs (w : Word) : (s.setIndex w).randomInputs = s.randomInputs := rfl
@[simp] theorem State.setIndex_draws (w : Word) : (s.setIndex w).draws = s.draws := rfl

/-! ### `setPc` -/

@[simp] theorem State.setPc_v (w : Word) : (s.setPc w).v = s.v := rfl
@[simp] theorem State.setPc_vWritten (w : Word) : (s.setPc w).vWritten = s.vWritten := rfl
@[simp] theorem State.setPc_index (w : Word) : (s.setPc w).index = s.index := rfl
@[simp] theorem State.setPc_indexWritten (w : Word) : (s.setPc w).indexWritten = s.indexWritten := rfl
@[simp] theorem State.setPc_pc (w : Word) : (s.setPc w).pc = w := rfl
@[simp] theorem State.setPc_stack (w : Word) : (s.setPc w).stack = s.stack := rfl
@[simp] theorem State.setPc_dt (w : Word) : (s.setPc w).dt = s.dt := rfl
@[simp] theorem State.setPc_st (w : Word) : (s.setPc w).st = s.st := rfl
@[simp] theorem State.setPc_div (w : Word) : (s.setPc w).div = s.div := rfl
@[simp] theorem State.setPc_execState (w : Word) : (s.setPc w).execState = s.execState := rfl
@[simp] theorem State.setPc_keys (w : Word) : (s.setPc w).keys = s.keys := rfl
@[simp] theorem State.setPc_disp (w : Word) : (s.setPc w).disp = s.disp := rfl
@[simp] theorem State.setPc_dirty (w : Word) : (s.setPc w).dirty = s.dirty := rfl
@[simp] theorem State.setPc_audio (w : Word) : (s.setPc w).audio = s.audio := rfl
@[simp] theorem State.setPc_mem (w : Word) : (s.setPc w).mem = s.mem := rfl
@[simp] theorem State.setPc_cfg (w : Word) : (s.setPc w).cfg = s.cfg := rfl
@[simp] theorem State.setPc_ir (w : Word) : (s.setPc w).ir = s.ir := rfl
@[simp] theorem State.setPc_events (w : Word) : (s.setPc w).events = s.events := rfl
@[simp] theorem State.setPc_randomInputs (w : Word) : (s.setPc w).randomInputs = s.randomInputs := rfl
@[simp] theorem State.setPc_draws (w : Word) : (s.setPc w).draws = s.draws := rfl

/-! ### `raiseWith` -/

@[simp] theorem State.raiseWith_v (w : Option Word) (k : FaultKind) : (s.raiseWith w k).v = s.v := rfl
@[simp] theorem State.raiseWith_vWritten (w : Option Word) (k : FaultKind) : (s.raiseWith w k).vWritten = s.vWritten := rfl
@[simp] theorem State.raiseWith_index (w : Option Word) (k : FaultKind) : (s.raiseWith w k).index = s.index := rfl
@[simp] theorem State.raiseWith_indexWritten (w : Option Word) (k : FaultKind) : (s.raiseWith w k).indexWritten = s.indexWritten := rfl
@[simp] theorem State.raiseWith_pc (w : Option Word) (k : FaultKind) : (s.raiseWith w k).pc = s.pc := rfl
@[simp] theorem State.raiseWith_stack (w : Option Word) (k : FaultKind) : (s.raiseWith w k).stack = s.stack := rfl
@[simp] theorem State.raiseWith_dt (w : Option Word) (k : FaultKind) : (s.raiseWith w k).dt = s.dt := rfl
@[simp] theorem State.raiseWith_st (w : Option Word) (k : FaultKind) : (s.raiseWith w k).st = s.st := rfl
@[simp] theorem State.raiseWith_div (w : Option Word) (k : FaultKind) : (s.raiseWith w k).div = s.div := rfl
@[simp] theorem State.raiseWith_execState (w : Option Word) (k : FaultKind) : (s.raiseWith w k).execState = .faulted k (s.snapshot w) := rfl
@[simp] theorem State.raiseWith_keys (w : Option Word) (k : FaultKind) : (s.raiseWith w k).keys = s.keys := rfl
@[simp] theorem State.raiseWith_disp (w : Option Word) (k : FaultKind) : (s.raiseWith w k).disp = s.disp := rfl
@[simp] theorem State.raiseWith_dirty (w : Option Word) (k : FaultKind) : (s.raiseWith w k).dirty = s.dirty := rfl
@[simp] theorem State.raiseWith_audio (w : Option Word) (k : FaultKind) : (s.raiseWith w k).audio = s.audio := rfl
@[simp] theorem State.raiseWith_mem (w : Option Word) (k : FaultKind) : (s.raiseWith w k).mem = s.mem := rfl
@[simp] theorem State.raiseWith_cfg (w : Option Word) (k : FaultKind) : (s.raiseWith w k).cfg = s.cfg := rfl
@[simp] theorem State.raiseWith_ir (w : Option Word) (k : FaultKind) : (s.raiseWith w k).ir = s.ir := rfl
@[simp] theorem State.raiseWith_events (w : Option Word) (k : FaultKind) : (s.raiseWith w k).events = s.events := rfl
@[simp] theorem State.raiseWith_randomInputs (w : Option Word) (k : FaultKind) : (s.raiseWith w k).randomInputs = s.randomInputs := rfl
@[simp] theorem State.raiseWith_draws (w : Option Word) (k : FaultKind) : (s.raiseWith w k).draws = s.draws := rfl

/-! ### `raise` -/

@[simp] theorem State.raise_v (k : FaultKind) : (s.raise k).v = s.v := rfl
@[simp] theorem State.raise_vWritten (k : FaultKind) : (s.raise k).vWritten = s.vWritten := rfl
@[simp] theorem State.raise_index (k : FaultKind) : (s.raise k).index = s.index := rfl
@[simp] theorem State.raise_indexWritten (k : FaultKind) : (s.raise k).indexWritten = s.indexWritten := rfl
@[simp] theorem State.raise_pc (k : FaultKind) : (s.raise k).pc = s.pc := rfl
@[simp] theorem State.raise_stack (k : FaultKind) : (s.raise k).stack = s.stack := rfl
@[simp] theorem State.raise_dt (k : FaultKind) : (s.raise k).dt = s.dt := rfl
@[simp] theorem State.raise_st (k : FaultKind) : (s.raise k).st = s.st := rfl
@[simp] theorem State.raise_div (k : FaultKind) : (s.raise k).div = s.div := rfl
@[simp] theorem State.raise_execState (k : FaultKind) : (s.raise k).execState = .faulted k (s.snapshot s.ir) := rfl
@[simp] theorem State.raise_keys (k : FaultKind) : (s.raise k).keys = s.keys := rfl
@[simp] theorem State.raise_disp (k : FaultKind) : (s.raise k).disp = s.disp := rfl
@[simp] theorem State.raise_dirty (k : FaultKind) : (s.raise k).dirty = s.dirty := rfl
@[simp] theorem State.raise_audio (k : FaultKind) : (s.raise k).audio = s.audio := rfl
@[simp] theorem State.raise_mem (k : FaultKind) : (s.raise k).mem = s.mem := rfl
@[simp] theorem State.raise_cfg (k : FaultKind) : (s.raise k).cfg = s.cfg := rfl
@[simp] theorem State.raise_ir (k : FaultKind) : (s.raise k).ir = s.ir := rfl
@[simp] theorem State.raise_events (k : FaultKind) : (s.raise k).events = s.events := rfl
@[simp] theorem State.raise_randomInputs (k : FaultKind) : (s.raise k).randomInputs = s.randomInputs := rfl
@[simp] theorem State.raise_draws (k : FaultKind) : (s.raise k).draws = s.draws := rfl

/-! ### `writeByte` -/

@[simp] theorem State.writeByte_v (a : Nat) (b : Byte) : (s.writeByte a b).v = s.v := rfl
@[simp] theorem State.writeByte_vWritten (a : Nat) (b : Byte) : (s.writeByte a b).vWritten = s.vWritten := rfl
@[simp] theorem State.writeByte_index (a : Nat) (b : Byte) : (s.writeByte a b).index = s.index := rfl
@[simp] theorem State.writeByte_indexWritten (a : Nat) (b : Byte) : (s.writeByte a b).indexWritten = s.indexWritten := rfl
@[simp] theorem State.writeByte_pc (a : Nat) (b : Byte) : (s.writeByte a b).pc = s.pc := rfl
@[simp] theorem State.writeByte_stack (a : Nat) (b : Byte) : (s.writeByte a b).stack = s.stack := rfl
@[simp] theorem State.writeByte_dt (a : Nat) (b : Byte) : (s.writeByte a b).dt = s.dt := rfl
@[simp] theorem State.writeByte_st (a : Nat) (b : Byte) : (s.writeByte a b).st = s.st := rfl
@[simp] theorem State.writeByte_div (a : Nat) (b : Byte) : (s.writeByte a b).div = s.div := rfl
@[simp] theorem State.writeByte_execState (a : Nat) (b : Byte) : (s.writeByte a b).execState = s.execState := rfl
@[simp] theorem State.writeByte_keys (a : Nat) (b : Byte) : (s.writeByte a b).keys = s.keys := rfl
@[simp] theorem State.writeByte_disp (a : Nat) (b : Byte) : (s.writeByte a b).disp = s.disp := rfl
@[simp] theorem State.writeByte_dirty (a : Nat) (b : Byte) : (s.writeByte a b).dirty = s.dirty := rfl
@[simp] theorem State.writeByte_audio (a : Nat) (b : Byte) : (s.writeByte a b).audio = s.audio := rfl
@[simp] theorem State.writeByte_mem (a : Nat) (b : Byte) : (s.writeByte a b).mem = Memory.write s.cfg s.mem a b := rfl
@[simp] theorem State.writeByte_cfg (a : Nat) (b : Byte) : (s.writeByte a b).cfg = s.cfg := rfl
@[simp] theorem State.writeByte_ir (a : Nat) (b : Byte) : (s.writeByte a b).ir = s.ir := rfl
@[simp] theorem State.writeByte_events (a : Nat) (b : Byte) : (s.writeByte a b).events = s.events := rfl
@[simp] theorem State.writeByte_randomInputs (a : Nat) (b : Byte) : (s.writeByte a b).randomInputs = s.randomInputs := rfl
@[simp] theorem State.writeByte_draws (a : Nat) (b : Byte) : (s.writeByte a b).draws = s.draws := rfl

/-! ### `push` -/

@[simp] theorem State.push_v (w : Word) : (s.push w).v = s.v := rfl
@[simp] theorem State.push_vWritten (w : Word) : (s.push w).vWritten = s.vWritten := rfl
@[simp] theorem State.push_index (w : Word) : (s.push w).index = s.index := rfl
@[simp] theorem State.push_indexWritten (w : Word) : (s.push w).indexWritten = s.indexWritten := rfl
@[simp] theorem State.push_pc (w : Word) : (s.push w).pc = s.pc := rfl
@[simp] theorem State.push_stack (w : Word) : (s.push w).stack = s.stack ++ [w] := rfl
@[simp] theorem State.push_dt (w : Word) : (s.push w).dt = s.dt := rfl
@[simp] theorem State.push_st (w : Word) : (s.push w).st = s.st := rfl
@[simp] theorem State.push_div (w : Word) : (s.push w).div = s.div := rfl
@[simp] theorem State.push_execState (w : Word) : (s.push w).execState = s.execState := rfl
@[simp] theorem State.push_keys (w : Word) : (s.push w).keys = s.keys := rfl
@[simp] theorem State.push_disp (w : Word) : (s.push w).disp = s.disp := rfl
@[simp] theorem State.push_dirty (w : Word) : (s.push w).dirty = s.dirty := rfl
@[simp] theorem State.push_audio (w : Word) : (s.push w).audio = s.audio := rfl
@[simp] theorem State.push_mem (w : Word) : (s.push w).mem = s.mem := rfl
@[simp] theorem State.push_cfg (w : Word) : (s.push w).cfg = s.cfg := rfl
@[simp] theorem State.push_ir (w : Word) : (s.push w).ir = s.ir := rfl
@[simp] theorem State.push_events (w : Word) : (s.push w).events = s.events := rfl
@[simp] theorem State.push_randomInputs (w : Word) : (s.push w).randomInputs = s.randomInputs := rfl
@[simp] theorem State.push_draws (w : Word) : (s.push w).draws = s.draws := rfl

/-! ### `dropTop` -/

@[simp] theorem State.dropTop_v : (s.dropTop).v = s.v := rfl
@[simp] theorem State.dropTop_vWritten : (s.dropTop).vWritten = s.vWritten := rfl
@[simp] theorem State.dropTop_index : (s.dropTop).index = s.index := rfl
@[simp] theorem State.dropTop_indexWritten : (s.dropTop).indexWritten = s.indexWritten := rfl
@[simp] theorem State.dropTop_pc : (s.dropTop).pc = s.pc := rfl
@[simp] theorem State.dropTop_stack : (s.dropTop).stack = s.stack.dropLast := rfl
@[simp] theorem State.dropTop_dt : (s.dropTop).dt = s.dt := rfl
@[simp] theorem State.dropTop_st : (s.dropTop).st = s.st := rfl
@[simp] theorem State.dropTop_div : (s.dropTop).div = s.div := rfl
@[simp] theorem State.dropTop_execState : (s.dropTop).execState = s.execState := rfl
@[simp] theorem State.dropTop_keys : (s.dropTop).keys = s.keys := rfl
@[simp] theorem State.dropTop_disp : (s.dropTop).disp = s.disp := rfl
@[simp] theorem State.dropTop_dirty : (s.dropTop).dirty = s.dirty := rfl
@[simp] theorem State.dropTop_audio : (s.dropTop).audio = s.audio := rfl
@[simp] theorem State.dropTop_mem : (s.dropTop).mem = s.mem := rfl
@[simp] theorem State.dropTop_cfg : (s.dropTop).cfg = s.cfg := rfl
@[simp] theorem State.dropTop_ir : (s.dropTop).ir = s.ir := rfl
@[simp] theorem State.dropTop_events : (s.dropTop).events = s.events := rfl
@[simp] theorem State.dropTop_randomInputs : (s.dropTop).randomInputs = s.randomInputs := rfl
@[simp] theorem State.dropTop_draws : (s.dropTop).draws = s.draws := rfl

/-! ### `audioStart` -/

@[simp] theorem State.audioStart_v : (s.audioStart).v = s.v := rfl
@[simp] theorem State.audioStart_vWritten : (s.audioStart).vWritten = s.vWritten := rfl
@[simp] theorem State.audioStart_index : (s.audioStart).index = s.index := rfl
@[simp] theorem State.audioStart_indexWritten : (s.audioStart).indexWritten = s.indexWritten := rfl
@[simp] theorem State.audioStart_pc : (s.audioStart).pc = s.pc := rfl
@[simp] theorem State.audioStart_stack : (s.audioStart).stack = s.stack := rfl
@[simp] theorem State.audioStart_dt : (s.audioStart).dt = s.dt := rfl
@[simp] theorem State.audioStart_st : (s.audioStart).st = s.st := rfl
@[simp] theorem State.audioStart_div : (s.audioStart).div = s.div := rfl
@[simp] theorem State.audioStart_execState : (s.audioStart).execState = s.execState := rfl
@[simp] theorem State.audioStart_keys : (s.audioStart).keys = s.keys := rfl
@[simp] theorem State.audioStart_disp : (s.audioStart).disp = s.disp := rfl
@[simp] theorem State.audioStart_dirty : (s.audioStart).dirty = s.dirty := rfl
@[simp] theorem State.audioStart_audio : (s.audioStart).audio = true := rfl
@[simp] theorem State.audioStart_mem : (s.audioStart).mem = s.mem := rfl
@[simp] theorem State.audioStart_cfg : (s.audioStart).cfg = s.cfg := rfl
@[simp] theorem State.audioStart_ir : (s.audioStart).ir = s.ir := rfl
@[simp] theorem State.audioStart_events : (s.audioStart).events = s.events ++ [.start] := rfl
@[simp] theorem State.audioStart_randomInputs : (s.audioStart).randomInputs = s.randomInputs := rfl
@[simp] theorem State.audioStart_draws : (s.audioStart).draws = s.draws := rfl

/-! ### `audioStop` -/

@[simp] theorem State.audioStop_v : (s.audioStop).v = s.v := rfl
@[simp] theorem State.audioStop_vWritten : (s.audioStop).vWritten = s.vWritten := rfl
@[simp] theorem State.audioStop_index : (s.audioStop).index = s.index := rfl
@[simp] theorem State.audioStop_indexWritten : (s.audioStop).indexWritten = s.indexWritten := rfl
@[simp] theorem State.audioStop_pc : (s.audioStop).pc = s.pc := rfl
@[simp] theorem State.audioStop_stack : (s.audioStop).stack = s.stack := rfl
@[simp] theorem State.audioStop_dt : (s.audioStop).dt = s.dt := rfl
@[simp] theorem State.audioStop_st : (s.audioStop).st = s.st := rfl
@[simp] theorem State.audioStop_div : (s.audioStop).div = s.div := rfl
@[simp] theorem State.audioStop_execState : (s.audioStop).execState = s.execState := rfl
@[simp] theorem State.audioStop_keys : (s.audioStop).keys = s.keys := rfl
@[simp] theorem State.audioStop_disp : (s.audioStop).disp = s.disp := rfl
@[simp] theorem State.audioStop_dirty : (s.audioStop).dirty = s.dirty := rfl
@[simp] theorem State.audioStop_audio : (s.audioStop).audio = false := rfl
@[simp] theorem State.audioStop_mem : (s.audioStop).mem = s.mem := rfl
@[simp] theorem State.audioStop_cfg : (s.audioStop).cfg = s.cfg := rfl
@[simp] theorem State.audioStop_ir : (s.audioStop).ir = s.ir := rfl
@[simp] theorem State.audioStop_events : (s.audioStop).events = s.events ++ [.stop] := rfl
@[simp] theorem State.audioStop_randomInputs : (s.audioStop).randomInputs = s.randomInputs := rfl
@[simp] theorem State.audioStop_draws : (s.audioStop).draws = s.draws := rfl

/-! ### `afterDraw16` -/

@[simp] theorem State.afterDraw16_v : (s.afterDraw16).v = s.v := rfl
@[simp] theorem State.afterDraw16_vWritten : (s.afterDraw16).vWritten = s.vWritten := rfl
@[simp] theorem State.afterDraw16_index : (s.afterDraw16).index = s.index := rfl
@[simp] theorem State.afterDraw16_indexWritten : (s.afterDraw16).indexWritten = s.indexWritten := rfl
@[simp] theorem State.afterDraw16_pc : (s.afterDraw16).pc = s.pc := rfl
@[simp] theorem State.afterDraw16_stack : (s.afterDraw16).stack = s.stack := rfl
@[simp] theorem State.afterDraw16_dt : (s.afterDraw16).dt = s.dt := rfl
@[simp] theorem State.afterDraw16_st : (s.afterDraw16).st = s.st := rfl
@[simp] theorem State.afterDraw16_div : (s.afterDraw16).div = s.div := rfl
@[simp] theorem State.afterDraw16_execState : (s.afterDraw16).execState = s.execState := rfl
@[simp] theorem State.afterDraw16_keys : (s.afterDraw16).keys = s.keys := rfl
@[simp] theorem State.afterDraw16_disp : (s.afterDraw16).disp = s.disp := rfl
@[simp] theorem State.afterDraw16_dirty : (s.afterDraw16).dirty = s.dirty := rfl
@[simp] theorem State.afterDraw16_audio : (s.afterDraw16).audio = s.audio := rfl
@[simp] theorem State.afterDraw16_mem : (s.afterDraw16).mem = s.mem := rfl
@[simp] theorem State.afterDraw16_cfg : (s.afterDraw16).cfg = s.cfg := rfl
@[simp] theorem State.afterDraw16_ir : (s.afterDraw16).ir = s.ir := rfl
@[simp] theorem State.afterDraw16_events : (s.afterDraw16).events = s.events := rfl
@[simp] theorem State.afterDraw16_randomInputs : (s.afterDraw16).randomInputs = s.randomInputs := rfl
@[simp] theorem State.afterDraw16_draws : (s.afterDraw16).draws = s.draws + 1 := rfl

/-! ### `fetched` -/

@[simp] theorem State.fetched_v : (s.fetched).v = s.v := rfl
@[simp] theorem State.fetched_vWritten : (s.fetched).vWritten = s.vWritten := rfl
@[simp] theorem State.fetched_index : (s.fetched).index = s.index := rfl
@[simp] theorem State.fetched_indexWritten : (s.fetched).indexWritten = s.indexWritten := rfl
@[simp] theorem State.fetched_pc : (s.fetched).pc = s.pc + 2 := rfl
@[simp] theorem State.fetched_stack : (s.fetched).stack = s.stack := rfl
@[simp] theorem State.fetched_dt : (s.fetched).dt = s.dt := rfl
@[simp] theorem State.fetched_st : (s.fetched).st = s.st := rfl
@[simp] theorem State.fetched_div : (s.fetched).div = s.div := rfl
@[simp] theorem State.fetched_execState : (s.fetched).execState = s.execState := rfl
@[simp] theorem State.fetched_keys : (s.fetched).keys = s.keys := rfl
@[simp] theorem State.fetched_disp : (s.fetched).disp = s.disp := rfl
@[simp] theorem State.fetched_dirty : (s.fetched).dirty = s.dirty := rfl
@[simp] theorem State.fetched_audio : (s.fetched).audio = s.audio := rfl
@[simp] theorem State.fetched_mem : (s.fetched).mem = s.mem := rfl
@[simp] theorem State.fetched_cfg : (s.fetched).cfg = s.cfg := rfl
@[simp] theorem State.fetched_ir : (s.fetched).ir = some (s.readWord s.pc.toNat) := rfl
@[simp] theorem State.fetched_events : (s.fetched).events = s.events := rfl
@[simp] theorem State.fetched_randomInputs : (s.fetched).randomInputs = s.randomInputs := rfl
@[simp] theorem State.fetched_draws : (s.fetched).draws = s.draws := rfl

/-! ### `construct` -/

@[simp] theorem State.construct_v (cfg : Config) : (State.construct cfg).v = Vector.replicate 16 0 := rfl
@[simp] theorem State.construct_vWritten (cfg : Config) : (State.construct cfg).vWritten = Vector.replicate 16 false := rfl
@[simp] theorem State.construct_index (cfg : Config) : (State.construct cfg).index = 0 := rfl
@[simp] theorem State.construct_indexWritten (cfg : Config) : (State.construct cfg).indexWritten = false := rfl
@[simp] theorem State.construct_pc (cfg : Config) : (State.construct cfg).pc = 0x200 := rfl
@[simp] theorem State.construct_stack (cfg : Config) : (State.construct cfg).stack = [] := rfl
@[simp] theorem State.construct_dt (cfg : Config) : (State.construct cfg).dt = 0 := rfl
@[simp] theorem State.construct_st (cfg : Config) : (State.construct cfg).st = 0 := rfl
@[simp] theorem State.construct_div (cfg : Config) : (State.construct cfg).div = cfg.timerDivider := rfl
@[simp] theorem State.construct_execState (cfg : Config) : (State.construct cfg).execState = .running := rfl
@[simp] theorem State.construct_keys (cfg : Config) : (State.construct cfg).keys = Vector.replicate 16 false := rfl
@[simp] theorem State.construct_disp (cfg : Config) : (State.construct cfg).disp = Display.blank := rfl
@[simp] theorem State.construct_dirty (cfg : Config) : (State.construct cfg).dirty = false := rfl
@[simp] theorem State.construct_audio (cfg : Config) : (State.construct cfg).audio = false := rfl
@[simp] theorem State.construct_mem (cfg : Config) : (State.construct cfg).mem = [] := rfl
@[simp] theorem State.construct_cfg (cfg : Config) : (State.construct cfg).cfg = cfg := rfl
@[simp] theorem State.construct_ir (cfg : Config) : (State.construct cfg).ir = none := rfl
@[simp] theorem State.construct_events (cfg : Config) : (State.construct cfg).events = [] := rfl
@[simp] theorem State.construct_randomInputs (cfg : Config) : (State.construct cfg).randomInputs = [] := rfl
@[simp] theorem State.construct_draws (cfg : Config) : (State.construct cfg).draws = 0 := rfl

end Sys2Proof.Machine
end

