-- ==== Sys2Proof/Laws/Display.lean ====
section
/-! SUPPORT. The display laws: what a toggle, one plotted bit and one sprite row do to every cell and to the collision
(44_display.md R191, R192). -/

namespace Sys2Proof.Machine

theorem Display.get_of_lt (d : Display) {col row : Nat} (hc : col < 64) (hr : row < 32) :
    Display.get d col row = d[col][row] := by simp [Display.get, hc, hr]

theorem Display.get_outside (d : Display) {col row : Nat} (h : ¬ (col < 64 ∧ row < 32)) :
    Display.get d col row = false := by rw [Display.get, dif_neg h]

/-- Two buffers with the same cells are the same buffer. -/
theorem Display.ext_get {d e : Display} (h : ∀ col row, Display.get d col row = Display.get e col row) : d = e := by
  apply Vector.ext
  intro c hc
  apply Vector.ext
  intro r hr
  have := h c r
  rwa [Display.get_of_lt d hc hr, Display.get_of_lt e hc hr] at this

theorem Display.get_toggle (d : Display) (col row c r : Nat) :
    Display.get (Display.toggle d col row) c r =
      (Display.get d c r ^^ decide (c = col ∧ r = row ∧ col < 64 ∧ row < 32)) := by
  unfold Display.toggle
  by_cases hin : col < 64 ∧ row < 32
  · obtain ⟨hc, hr⟩ := hin
    rw [dif_pos ⟨hc, hr⟩]
    by_cases ho : c < 64 ∧ r < 32
    · rw [Display.get_of_lt _ ho.1 ho.2, Display.get_of_lt _ ho.1 ho.2]
      by_cases e : c = col
      · subst e
        simp only [Vector.getElem_set_self]
        by_cases f : r = row
        · subst f; simp [ho]
        · simp [f, Ne.symm f]
      · simp [e, Ne.symm e]
    · rw [Display.get_outside _ ho, Display.get_outside _ ho]
      have : ¬ (c = col ∧ r = row ∧ col < 64 ∧ row < 32) := by
        rintro ⟨rfl, rfl, h1, h2⟩; exact ho ⟨h1, h2⟩
      simp [this]
  · rw [dif_neg hin]
    have : ¬ (c = col ∧ r = row ∧ col < 64 ∧ row < 32) := fun h => hin h.2.2
    simp [this]

@[simp] theorem Display.get_blank (col row : Nat) : Display.get Display.blank col row = false := by
  unfold Display.get Display.blank
  split <;> simp

theorem Blit.get_plot (b : Blit) (col row c r : Nat) :
    Display.get (b.plot col row).disp c r =
      (Display.get b.disp c r ^^ decide (c = col ∧ r = row ∧ col < 64 ∧ row < 32)) := by
  unfold Blit.plot
  split
  · exact Display.get_toggle b.disp col row c r
  · rename_i h
    have : ¬ (c = col ∧ r = row ∧ col < 64 ∧ row < 32) := fun e => h e.2.2
    simp [this]

theorem Blit.collision_plot (b : Blit) (col row : Nat) :
    (b.plot col row).collision = (b.collision || Display.get b.disp col row) := by
  unfold Blit.plot
  split
  · rfl
  · rename_i h; rw [Display.get_outside _ h, Bool.or_false]

/-- The bit of a row byte that lands on column `c` when the row starts at column `ox`, if one of its first `n` does
(44_display.md R192, R194). -/
def rowBit (bits : Byte) (ox n c : Nat) : Bool := decide (ox ≤ c ∧ c - ox < n) && bits.getLsbD (7 - (c - ox))

/-- The first `n` columns of a sprite row. -/
def Blit.cols (b : Blit) (bits : Byte) (ox row n : Nat) : Blit :=
  (List.range n).foldl (fun acc c => if bits.getLsbD (7 - c) then acc.plot (ox + c) row else acc) b

theorem Blit.row_eq_cols (b : Blit) (bits : Byte) (ox row : Nat) : b.row bits ox row = b.cols bits ox row 8 := rfl

theorem Blit.cols_succ (b : Blit) (bits : Byte) (ox row n : Nat) :
    b.cols bits ox row (n + 1) =
      if bits.getLsbD (7 - n) then (b.cols bits ox row n).plot (ox + n) row else b.cols bits ox row n := by
  simp [Blit.cols, List.range_succ]

theorem rowBit_succ (bits : Byte) (ox n c : Nat) :
    rowBit bits ox (n + 1) c = (rowBit bits ox n c || (decide (c = ox + n) && bits.getLsbD (7 - n))) := by
  unfold rowBit
  by_cases h : c = ox + n
  · subst h; simp
  · have : (ox ≤ c ∧ c - ox < n + 1) ↔ (ox ≤ c ∧ c - ox < n) := by omega
    simp only [this, h, decide_false, Bool.false_and, Bool.or_false]

theorem Blit.get_cols (b : Blit) (bits : Byte) (ox row n c r : Nat) :
    Display.get (b.cols bits ox row n).disp c r =
      (Display.get b.disp c r ^^ (decide (r = row ∧ c < 64 ∧ row < 32) && rowBit bits ox n c)) := by
  induction n with
  | zero => simp [Blit.cols, rowBit]
  | succ n ih =>
    rw [Blit.cols_succ, rowBit_succ]
    by_cases hb : bits.getLsbD (7 - n)
    · rw [if_pos hb, Blit.get_plot, ih]
      by_cases h : c = ox + n
      · subst h
        have : rowBit bits ox n (ox + n) = false := by simp [rowBit]
        simp [this, hb]
      · simp [h]
    · simp only [hb, Bool.false_eq_true, if_false, Bool.and_false, Bool.or_false, ih]

theorem Blit.collision_cols (b : Blit) (bits : Byte) (ox row n : Nat) :
    (b.cols bits ox row n).collision = true ↔
      b.collision = true ∨ ∃ c, rowBit bits ox n c = true ∧ Display.get b.disp c row = true := by
  induction n with
  | zero => simp [Blit.cols, rowBit]
  | succ n ih =>
    rw [Blit.cols_succ]
    by_cases hb : bits.getLsbD (7 - n)
    · rw [if_pos hb, Blit.collision_plot, Bool.or_eq_true, ih, Blit.get_cols]
      have e : rowBit bits ox n (ox + n) = false := by simp [rowBit]
      simp only [e, Bool.and_false, Bool.xor_false, rowBit_succ, Bool.or_eq_true, Bool.and_eq_true,
        decide_eq_true_eq]
      constructor
      · rintro ((h | ⟨c, h1, h2⟩) | h)
        · exact .inl h
        · exact .inr ⟨c, .inl h1, h2⟩
        · exact .inr ⟨ox + n, .inr ⟨rfl, hb⟩, h⟩
      · rintro (h | ⟨c, h1 | ⟨rfl, -⟩, h2⟩)
        · exact .inl (.inl h)
        · exact .inl (.inr ⟨c, h1, h2⟩)
        · exact .inr h2
    · simp only [hb, Bool.false_eq_true, if_false, rowBit_succ, Bool.and_false, Bool.or_false, ih]

/-- One sprite row XORs its bits into its own row of the buffer, inside the bounds, and changes no other cell. -/
theorem Blit.get_row (b : Blit) (bits : Byte) (ox row c r : Nat) :
    Display.get (b.row bits ox row).disp c r =
      (Display.get b.disp c r ^^ (decide (r = row ∧ c < 64 ∧ row < 32) && rowBit bits ox 8 c)) := by
  rw [Blit.row_eq_cols, Blit.get_cols]

/-- One sprite row collides iff it collided before or a 1 bit of it lands on a set cell. -/
theorem Blit.collision_row (b : Blit) (bits : Byte) (ox row : Nat) :
    (b.row bits ox row).collision = true ↔
      b.collision = true ∨ ∃ c, rowBit bits ox 8 c = true ∧ Display.get b.disp c row = true := by
  rw [Blit.row_eq_cols, Blit.collision_cols]

/-! ### A whole sprite -/

theorem spriteBit_succ (s : State) (ox oy n col row : Nat) :
    spriteBit s ox oy (n + 1) col row = (spriteBit s ox oy n col row ||
      (decide (row = oy + n ∧ dataAddr s.index n ≤ 0xFFF) &&
        rowBit (s.readByte (dataAddr s.index n)) ox 8 col)) := by
  unfold spriteBit rowBit
  by_cases h : row = oy + n
  · subst h
    have e : oy + n - oy = n := by omega
    by_cases h1 : dataAddr s.index n ≤ 4095 <;> simp [e, h1]
  · have : (oy ≤ row ∧ row - oy < n + 1 ∧ ox ≤ col ∧ col - ox < 8 ∧ dataAddr s.index (row - oy) ≤ 4095) ↔
        (oy ≤ row ∧ row - oy < n ∧ ox ≤ col ∧ col - ox < 8 ∧ dataAddr s.index (row - oy) ≤ 4095) := by omega
    simp only [this, h, false_and, decide_false, Bool.false_and, Bool.or_false]

/-- The next row of a sprite is not one of the rows before it. -/
theorem spriteBit_next_row (s : State) (ox oy n col : Nat) : spriteBit s ox oy n col (oy + n) = false := by
  unfold spriteBit; simp

theorem State.blitRows_succ (s : State) (i : Word) (ox oy n : Nat) (b : Blit) :
    s.blitRows i ox oy (List.range (n + 1)) b =
      if dataAddr i n > 0xFFF then s.blitRows i ox oy (List.range n) b
      else (s.blitRows i ox oy (List.range n) b).row (s.readByte (dataAddr i n)) ox (oy + n) := by
  simp [State.blitRows, List.range_succ]

/-- A sprite XORs its bits into the buffer, inside the bounds (44_display.md R191). -/
theorem State.get_blitRows (s : State) (ox oy n : Nat) (d : Display) {c r : Nat} (hc : c < 64) (hr : r < 32) :
    Display.get (s.blitRows s.index ox oy (List.range n) ⟨false, d⟩).disp c r =
      (Display.get d c r ^^ spriteBit s ox oy n c r) := by
  induction n with
  | zero => simp [State.blitRows, spriteBit]
  | succ n ih =>
    rw [State.blitRows_succ, spriteBit_succ]
    split
    · rename_i h
      have h' : ¬ dataAddr s.index n ≤ 4095 := by omega
      rw [ih]; simp [h']
    · rename_i h
      have h' : dataAddr s.index n ≤ 4095 := by omega
      rw [Blit.get_row, ih]
      by_cases e : r = oy + n
      · subst e
        rw [spriteBit_next_row]
        simp [h', hc, hr]
      · simp [e]

/-- A sprite collides iff a 1 bit of it lands on a set cell of the buffer it is drawn on (44_display.md R191). -/
theorem State.collision_blitRows (s : State) (ox oy n : Nat) (d : Display) :
    (s.blitRows s.index ox oy (List.range n) ⟨false, d⟩).collision = true ↔
      ∃ c r, c < 64 ∧ r < 32 ∧ Display.get d c r = true ∧ spriteBit s ox oy n c r = true := by
  induction n with
  | zero => simp [State.blitRows, spriteBit]
  | succ n ih =>
    rw [State.blitRows_succ]
    split
    · rename_i h
      have h' : ¬ dataAddr s.index n ≤ 4095 := by omega
      rw [ih]; simp [spriteBit_succ, h']
    · rename_i h
      have h' : dataAddr s.index n ≤ 4095 := by omega
      rw [Blit.collision_row, ih]
      constructor
      · rintro (⟨c, r, h1, h2, h3, h4⟩ | ⟨c, h1, h2⟩)
        · exact ⟨c, r, h1, h2, h3, by rw [spriteBit_succ, h4]; rfl⟩
        · have hb : c < 64 ∧ oy + n < 32 := by
            by_contra hb; rw [Display.get_outside _ hb] at h2; cases h2
          rw [State.get_blitRows _ _ _ _ _ hb.1 hb.2, spriteBit_next_row, Bool.xor_false] at h2
          exact ⟨c, oy + n, hb.1, hb.2, h2, by rw [spriteBit_succ, h1]; simp [h']⟩
      · rintro ⟨c, r, h1, h2, h3, h4⟩
        rw [spriteBit_succ] at h4
        simp only [Bool.or_eq_true, Bool.and_eq_true, decide_eq_true_eq] at h4
        rcases h4 with h4 | ⟨⟨rfl, -⟩, h4⟩
        · exact .inl ⟨c, r, h1, h2, h3, h4⟩
        · exact .inr ⟨c, h4, by rw [State.get_blitRows _ _ _ _ _ h1 h2, spriteBit_next_row, Bool.xor_false]; exact h3⟩

end Sys2Proof.Machine
end

