-- ==== Sys2Proof/Laws/Encoding.lean ====
section
/-! SUPPORT. The fields of the words the encoder builds (30_encoding.md R72, R73). -/

namespace Sys2Proof

theorem toNat_append_eq {n m : Nat} (a : BitVec n) (b : BitVec m) : (a ++ b).toNat = a.toNat * 2 ^ m + b.toNat := by
  rw [BitVec.toNat_append, Nat.shiftLeft_eq, Nat.mul_comm, ← Nat.two_pow_add_eq_or_of_lt b.isLt, Nat.mul_comm]

theorem toNat_regField (r : RegIdx) : (regField r).toNat = r.val := rfl

theorem toNat_wordGNNN (g : Nibble) (nnn : Addr12) : (wordGNNN g nnn).toNat = g.toNat * 4096 + nnn.toNat :=
  toNat_append_eq g nnn

theorem toNat_wordGXNN (g : Nibble) (x : RegIdx) (nn : Byte) :
    (wordGXNN g x nn).toNat = (g.toNat * 16 + x.val) * 256 + nn.toNat := by
  have h : (wordGXNN g x nn).toNat = ((g ++ regField x) ++ nn : BitVec (4 + 4 + 8)).toNat := rfl
  rw [h, toNat_append_eq, toNat_append_eq, toNat_regField]; norm_num

theorem toNat_wordGXYN (g : Nibble) (x y : RegIdx) (n : Nibble) :
    (wordGXYN g x y n).toNat = ((g.toNat * 16 + x.val) * 16 + y.val) * 16 + n.toNat := by
  have h : (wordGXYN g x y n).toNat = (((g ++ regField x) ++ regField y) ++ n : BitVec (4 + 4 + 4 + 4)).toNat := rfl
  rw [h, toNat_append_eq, toNat_append_eq, toNat_append_eq, toNat_regField, toNat_regField]; norm_num

theorem toNat_fieldG (w : Word) : (fieldG w).toNat = w.toNat / 4096 := by
  have := w.isLt
  simp only [fieldG, BitVec.extractLsb'_toNat, Nat.shiftRight_eq_div_pow]; omega

theorem val_fieldX (w : Word) : (fieldX w).val = w.toNat / 256 % 16 := by
  simp [fieldX, Nat.shiftRight_eq_div_pow]

theorem val_fieldY (w : Word) : (fieldY w).val = w.toNat / 16 % 16 := by
  simp [fieldY, Nat.shiftRight_eq_div_pow]

theorem toNat_fieldN (w : Word) : (fieldN w).toNat = w.toNat % 16 := by simp [fieldN]

theorem toNat_fieldNN (w : Word) : (fieldNN w).toNat = w.toNat % 256 := by simp [fieldNN]

theorem toNat_fieldNNN (w : Word) : (fieldNNN w).toNat = w.toNat % 4096 := by simp [fieldNNN]

section
variable (g n : Nibble) (x y : RegIdx) (nn : Byte) (nnn : Addr12)

theorem fieldG_wordGNNN : fieldG (wordGNNN g nnn) = g := by
  apply BitVec.eq_of_toNat_eq; rw [toNat_fieldG, toNat_wordGNNN]; omega

theorem fieldNNN_wordGNNN : fieldNNN (wordGNNN g nnn) = nnn := by
  apply BitVec.eq_of_toNat_eq; rw [toNat_fieldNNN, toNat_wordGNNN]; omega

theorem fieldG_wordGXNN : fieldG (wordGXNN g x nn) = g := by
  apply BitVec.eq_of_toNat_eq; rw [toNat_fieldG, toNat_wordGXNN]; omega

theorem fieldX_wordGXNN : fieldX (wordGXNN g x nn) = x := by
  apply Fin.ext; rw [val_fieldX, toNat_wordGXNN]; omega

theorem fieldNN_wordGXNN : fieldNN (wordGXNN g x nn) = nn := by
  apply BitVec.eq_of_toNat_eq; rw [toNat_fieldNN, toNat_wordGXNN]; omega

theorem fieldG_wordGXYN : fieldG (wordGXYN g x y n) = g := by
  apply BitVec.eq_of_toNat_eq; rw [toNat_fieldG, toNat_wordGXYN]; omega

theorem fieldX_wordGXYN : fieldX (wordGXYN g x y n) = x := by
  apply Fin.ext; rw [val_fieldX, toNat_wordGXYN]; omega

theorem fieldY_wordGXYN : fieldY (wordGXYN g x y n) = y := by
  apply Fin.ext; rw [val_fieldY, toNat_wordGXYN]; omega

theorem fieldN_wordGXYN : fieldN (wordGXYN g x y n) = n := by
  apply BitVec.eq_of_toNat_eq; rw [toNat_fieldN, toNat_wordGXYN]; omega

end

/-- The bytes of a word in memory order make the word again (20_memory.md R51). -/
@[simp] theorem wordOfBytes_bytesOfWord (w : Word) : wordOfBytes (bytesOfWord w).1 (bytesOfWord w).2 = w := by
  apply BitVec.eq_of_toNat_eq
  have h : (wordOfBytes (bytesOfWord w).1 (bytesOfWord w).2).toNat =
      (w.extractLsb' 8 8).toNat * 2 ^ 8 + (w.extractLsb' 0 8).toNat := toNat_append_eq _ _
  have := w.isLt
  rw [h]
  simp only [BitVec.extractLsb'_toNat, Nat.shiftRight_eq_div_pow]; omega

end Sys2Proof
end

