-- ==== Sys2Proof/Laws/Memory.lean ====
section
/-! SUPPORT. The memory laws: a read after a write, and that every operation keeps the canonical form (20_memory.md R55, R59). -/

namespace Sys2Proof.Machine

/-- `FONT_BASE` is in its domain (00_scope.md R9). -/
theorem Config.fontBaseAddr_le (cfg : Config) : cfg.fontBaseAddr ≤ 0x1B0 := by
  unfold Config.fontBaseAddr
  split <;> omega

/-- Glyph `d` occupies the five bytes from `FONT_BASE + 5·d` (43_index_and_memory.md R174). -/
theorem Memory.unlisted_glyph (cfg : Config) (d : Fin 16) (k : Fin 5) :
    Memory.unlisted cfg (cfg.fontBaseAddr + 5 * d.val + k.val) = cfg.fontData[d][k] := by
  have hb := Config.fontBaseAddr_le cfg
  have h1 : (cfg.fontBaseAddr + 5 * d.val + k.val - cfg.fontBaseAddr) / 5 = d.val := by omega
  have h2 : (cfg.fontBaseAddr + 5 * d.val + k.val - cfg.fontBaseAddr) % 5 = k.val := by omega
  unfold Memory.unlisted
  rw [if_pos (by simp only [progBase]; omega), if_pos (by omega), dif_pos (by omega)]
  simp only [h1, h2, Fin.getElem_fin]

/-- Outside the font an unlisted address reads as 0x00 (10_state.md R37). -/
theorem Memory.unlisted_outside {cfg : Config} {a : Nat} (h : a < cfg.fontBaseAddr ∨ cfg.fontBaseAddr + 80 ≤ a) :
    Memory.unlisted cfg a = 0x00 := by
  unfold Memory.unlisted
  split
  · split
    · rw [dif_neg (by omega)]
    · rfl
  · rfl

theorem Memory.find_insert (m : Memory) (a c : Nat) (b : Byte) :
    (m.insert a b).find c = if c = a then some b else m.find c := by
  induction m with
  | nil => simp [Memory.insert, Memory.find, eq_comm]
  | cons p rest ih =>
    obtain ⟨k, d⟩ := p
    unfold Memory.insert
    split
    · by_cases h : c = a
      · subst h; simp [Memory.find]
      · have : ¬ a = c := fun e => h e.symm
        simp [Memory.find, h, this]
    · split
      · by_cases h : c = a
        · subst h; simp [Memory.find]
        · have : ¬ a = c := fun e => h e.symm
          simp_all [Memory.find]
      · rw [Memory.find, Memory.find, ih]
        by_cases h : k = c
        · have : ¬ c = a := by omega
          simp [h, this]
        · simp [h]

theorem Memory.find_erase {m : Memory} (hs : m.Pairwise (fun p q => p.1 < q.1)) (a c : Nat) :
    (m.erase a).find c = if c = a then none else m.find c := by
  induction m with
  | nil => simp [Memory.erase, Memory.find]
  | cons p rest ih =>
    obtain ⟨k, d⟩ := p
    rw [List.pairwise_cons] at hs
    unfold Memory.erase
    split
    · rename_i hk
      subst hk
      by_cases h : c = k
      · subst h
        simp only [if_true]
        have : ∀ q ∈ rest, q.1 ≠ c := fun q hq => by have := hs.1 q hq; simp at this; omega
        clear ih hs
        induction rest with
        | nil => rfl
        | cons q rs ih2 =>
          obtain ⟨k2, d2⟩ := q
          have h2 : ¬ k2 = c := this (k2, d2) (by simp)
          simp only [Memory.find, h2, if_false]
          exact ih2 fun q hq => this q (by simp [hq])
      · have : ¬ k = c := fun e => h e.symm
        simp [Memory.find, h, this]
    · rw [Memory.find, ih hs.2, Memory.find]
      by_cases h : k = c
      · have : ¬ c = a := by omega
        simp [h, this]
      · simp [h]

/-- A read after a write: the written byte at that address, what was there before at every other. -/
theorem Memory.read_write {cfg : Config} {m : Memory} (hm : m.Pairwise (fun p q => p.1 < q.1)) {a : Nat}
    (ha : a < memSize) (c : Nat) (b : Byte) :
    Memory.read cfg (Memory.write cfg m a b) c = if c = a then b else Memory.read cfg m c := by
  unfold Memory.write Memory.read
  by_cases hb : b = Memory.unlisted cfg a
  · simp only [ha, hb, if_true, Memory.find_erase hm]
    by_cases h : c = a
    · subst h; simp
    · simp [h]
  · simp only [ha, hb, if_true, if_false, Memory.find_insert]
    by_cases h : c = a <;> simp [h]

theorem Memory.mem_insert {m : Memory} {a : Nat} {b : Byte} {c : Host.Cell} (h : c ∈ m.insert a b) :
    c = (a, b) ∨ c ∈ m := by
  induction m with
  | nil => simpa [Memory.insert] using h
  | cons p rest ih =>
    obtain ⟨k, d⟩ := p
    unfold Memory.insert at h
    split at h
    · simpa using h
    · split at h
      · rcases List.mem_cons.mp h with h | h
        · exact .inl h
        · exact .inr (by simp [h])
      · rcases List.mem_cons.mp h with h | h
        · exact .inr (by simp [h])
        · rcases ih h with h | h
          · exact .inl h
          · exact .inr (by simp [h])

theorem Memory.mem_erase {m : Memory} {a : Nat} {c : Host.Cell} (h : c ∈ m.erase a) : c ∈ m := by
  induction m with
  | nil => simp [Memory.erase] at h
  | cons p rest ih =>
    obtain ⟨k, d⟩ := p
    unfold Memory.erase at h
    split at h
    · simp [h]
    · rcases List.mem_cons.mp h with h | h
      · simp [h]
      · simp [ih h]

theorem Memory.insert_sorted {m : Memory} (hs : m.Pairwise (fun p q => p.1 < q.1)) (a : Nat) (b : Byte) :
    (m.insert a b).Pairwise (fun p q => p.1 < q.1) := by
  induction m with
  | nil => simp [Memory.insert]
  | cons p rest ih =>
    obtain ⟨k, d⟩ := p
    have hs' := List.pairwise_cons.mp hs
    unfold Memory.insert
    split
    · rename_i hk
      refine List.pairwise_cons.mpr ⟨fun q hq => ?_, hs⟩
      rcases List.mem_cons.mp hq with rfl | hq
      · exact hk
      · have := hs'.1 q hq; simp at this ⊢; omega
    · split
      · rename_i hk; subst hk
        exact List.pairwise_cons.mpr ⟨hs'.1, hs'.2⟩
      · refine List.pairwise_cons.mpr ⟨fun q hq => ?_, ih hs'.2⟩
        rcases Memory.mem_insert hq with rfl | hq
        · simp; omega
        · exact hs'.1 q hq

theorem Memory.erase_sorted {m : Memory} (hs : m.Pairwise (fun p q => p.1 < q.1)) (a : Nat) :
    (m.erase a).Pairwise (fun p q => p.1 < q.1) := by
  induction m with
  | nil => simp [Memory.erase]
  | cons p rest ih =>
    obtain ⟨k, d⟩ := p
    have hs' := List.pairwise_cons.mp hs
    unfold Memory.erase
    split
    · exact hs'.2
    · exact List.pairwise_cons.mpr ⟨fun q hq => hs'.1 q (Memory.mem_erase hq), ih hs'.2⟩

/-- Taking an address off a sorted list leaves no entry for it. -/
theorem Memory.not_mem_erase {m : Memory} (hs : m.Pairwise (fun p q => p.1 < q.1)) {a : Nat} {c : Host.Cell}
    (h : c ∈ m.erase a) : c.1 ≠ a := by
  induction m with
  | nil => simp [Memory.erase] at h
  | cons p rest ih =>
    obtain ⟨k, d⟩ := p
    have hs' := List.pairwise_cons.mp hs
    unfold Memory.erase at h
    split at h
    · rename_i hk; subst hk
      have := hs'.1 c h; simp at this; omega
    · rename_i hk
      rcases List.mem_cons.mp h with rfl | h
      · exact hk
      · exact ih hs'.2 h

/-- Every write keeps the canonical form. -/
theorem Memory.write_wf {cfg : Config} {m : Memory} (hm : Memory.wf cfg m) (a : Nat) (b : Byte) :
    Memory.wf cfg (Memory.write cfg m a b) := by
  unfold Memory.write
  split
  · rename_i ha
    split
    · exact ⟨Memory.erase_sorted hm.1 a, fun c hc => hm.2 c (Memory.mem_erase hc)⟩
    · rename_i hb
      refine ⟨Memory.insert_sorted hm.1 a b, fun c hc => ?_⟩
      rcases Memory.mem_insert hc with rfl | hc
      · exact ⟨ha, hb⟩
      · exact hm.2 c hc
  · exact hm

/-- An empty list is canonical: reset memory is. -/
theorem Memory.nil_wf (cfg : Config) : Memory.wf cfg [] := by simp [Memory.wf]

theorem State.readByte_writeByte {s : State} (hm : Memory.wf s.cfg s.mem) {a : Nat} (ha : a < memSize) (c : Nat)
    (b : Byte) : (s.writeByte a b).readByte c = if c = a then b else s.readByte c := by
  simp only [State.readByte, State.writeByte]
  exact Memory.read_write hm.1 ha c b

theorem State.writeByte_wf {s : State} (hm : Memory.wf s.cfg s.mem) (a : Nat) (b : Byte) :
    Memory.wf (s.writeByte a b).cfg (s.writeByte a b).mem := Memory.write_wf hm a b

/-- `readByte` depends on the memory and the parameters alone. -/
theorem State.readByte_congr {s t : State} (h : t.mem = s.mem) (hc : t.cfg = s.cfg) (a : Nat) :
    t.readByte a = s.readByte a := by simp [State.readByte, h, hc]

/-- Writing bytes changes memory alone. -/
theorem State.writeBytes_only_mem (s : State) (a : Nat) (bs : List Byte) :
    s.writeBytes a bs = { s with mem := (s.writeBytes a bs).mem } := by
  induction bs generalizing s a with
  | nil => rfl
  | cons b rest ih =>
    rw [State.writeBytes, ih]
    rfl

theorem State.writeBytes_wf {s : State} (hm : Memory.wf s.cfg s.mem) (a : Nat) (bs : List Byte) :
    Memory.wf s.cfg (s.writeBytes a bs).mem := by
  induction bs generalizing s a with
  | nil => exact hm
  | cons b rest ih =>
    exact ih (s := s.writeByte a b) (Memory.write_wf hm a b) (a + 1)

/-- Reading after writing a run of bytes inside memory: the `k`-th byte at the `k`-th address, everything else as before. -/
theorem State.readByte_writeBytes {s : State} (hm : Memory.wf s.cfg s.mem) {a : Nat} {bs : List Byte}
    (ha : a + bs.length ≤ memSize) (c : Nat) :
    (s.writeBytes a bs).readByte c = if h : a ≤ c ∧ c < a + bs.length then bs[c - a]'(by omega) else s.readByte c := by
  induction bs generalizing s a with
  | nil => simp [State.writeBytes]
  | cons b rest ih =>
    simp only [List.length_cons] at ha
    rw [State.writeBytes, ih (s := s.writeByte a b) (by simpa using Memory.write_wf hm a b) (by omega),
      State.readByte_writeByte hm (by omega)]
    by_cases h1 : c = a
    · subst h1; simp
    · by_cases h2 : a + 1 ≤ c ∧ c < a + 1 + rest.length
      · have h3 : a ≤ c ∧ c < a + (rest.length + 1) := by omega
        have e : c - a = (c - (a + 1)) + 1 := by omega
        simp [h2, h3, e]
      · have h3 : ¬ (a ≤ c ∧ c < a + (b :: rest).length) := by rw [List.length_cons]; omega
        rw [dif_neg h2, dif_neg h3, if_neg h1]

end Sys2Proof.Machine
end

