-- ==== Sys2Proof/Laws/Registers.lean ====
section
/-! SUPPORT. Reading registers after the updates that touch them (10_state.md R20, R38), and what a checked read can do. -/

namespace Sys2Proof.Machine

theorem State.getV_setV (s : State) (r q : RegIdx) (b : Byte) :
    (s.setV r b).getV q = if q = r then b else s.getV q := by
  unfold State.getV State.setV
  simp only [Fin.getElem_fin, Vector.getElem_set]
  by_cases h : q = r
  · subst h; simp
  · have : ¬ (r : Nat) = q := fun e => h (Fin.ext e.symm)
    simp [h, this]

@[simp] theorem State.getV_setV_self (s : State) (r : RegIdx) (b : Byte) : (s.setV r b).getV r = b := by
  simp [State.getV_setV]

theorem State.getV_setV_ne (s : State) {r q : RegIdx} (b : Byte) (h : q ≠ r) : (s.setV r b).getV q = s.getV q := by
  simp [State.getV_setV, h]

theorem State.vWritten_setV_get (s : State) (r q : RegIdx) (b : Byte) :
    (s.setV r b).vWritten[q] = if q = r then true else s.vWritten[q] := by
  unfold State.setV
  simp only [Fin.getElem_fin, Vector.getElem_set]
  by_cases h : q = r
  · subst h; simp
  · have : ¬ (r : Nat) = q := fun e => h (Fin.ext e.symm)
    simp [h, this]

/-- `getV` depends on the register file alone. -/
theorem State.getV_congr {s t : State} (h : t.v = s.v) (r : RegIdx) : t.getV r = s.getV r := by
  simp [State.getV, h]

/-- `canReadV` depends on the marks and the policy alone. -/
theorem State.canReadV_congr {s t : State} (h : t.vWritten = s.vWritten) (hc : t.cfg = s.cfg) (r : RegIdx) :
    t.canReadV r = s.canReadV r := by
  simp [State.canReadV, h, hc]

theorem State.canReadV_setV (s : State) (r q : RegIdx) (b : Byte) (h : s.canReadV q = true) :
    (s.setV r b).canReadV q = true := by
  unfold State.canReadV at *
  rw [State.vWritten_setV_get]
  by_cases e : q = r <;> simp_all

/-- Under `Zero` every register is readable (10_state.md R38). -/
theorem State.canReadV_of_zero (s : State) (h : s.cfg.resetRegisterPolicy = .zero) (r : RegIdx) :
    s.canReadV r = true := by simp [State.canReadV, h]

theorem State.canReadIndex_of_zero (s : State) (h : s.cfg.resetRegisterPolicy = .zero) :
    s.canReadIndex = true := by simp [State.canReadIndex, h]

/-! ### Checked reads: what each can do, once -/

theorem State.withV_readable (s : State) {r : RegIdx} (go : Byte → State) (h : s.canReadV r = true) :
    s.withV r go = go (s.getV r) := by simp [State.withV, h]

theorem State.withV_unreadable (s : State) {r : RegIdx} (go : Byte → State) (h : s.canReadV r = false) :
    s.withV r go = s.raise (.unwrittenRegister r.castSucc) := by simp [State.withV, h]

theorem State.withV_cases (s : State) (r : RegIdx) (go : Byte → State) :
    (s.canReadV r = true ∧ s.withV r go = go (s.getV r)) ∨
    (s.canReadV r = false ∧ s.withV r go = s.raise (.unwrittenRegister r.castSucc)) := by
  cases h : s.canReadV r
  · exact .inr ⟨rfl, s.withV_unreadable go h⟩
  · exact .inl ⟨rfl, s.withV_readable go h⟩

theorem State.withIndex_readable (s : State) (go : Word → State) (h : s.canReadIndex = true) :
    s.withIndex go = go s.index := by simp [State.withIndex, h]

theorem State.withIndex_unreadable (s : State) (go : Word → State) (h : s.canReadIndex = false) :
    s.withIndex go = s.raise (.unwrittenRegister 16) := by simp [State.withIndex, h]

theorem State.withIndex_cases (s : State) (go : Word → State) :
    (s.canReadIndex = true ∧ s.withIndex go = go s.index) ∨
    (s.canReadIndex = false ∧ s.withIndex go = s.raise (.unwrittenRegister 16)) := by
  cases h : s.canReadIndex
  · exact .inr ⟨rfl, s.withIndex_unreadable go h⟩
  · exact .inl ⟨rfl, s.withIndex_readable go h⟩

theorem State.withAllV_readable (s : State) (rs : List RegIdx) (go : State) (h : ∀ r ∈ rs, s.canReadV r = true) :
    s.withAllV rs go = go := by
  induction rs with
  | nil => rfl
  | cons r rest ih =>
    rw [State.withAllV, s.withV_readable _ (h r (by simp))]
    exact ih fun q hq => h q (by simp [hq])

theorem State.withAllV_cases (s : State) (rs : List RegIdx) (go : State) :
    ((∀ r ∈ rs, s.canReadV r = true) ∧ s.withAllV rs go = go) ∨
    (∃ r ∈ rs, s.canReadV r = false ∧ s.withAllV rs go = s.raise (.unwrittenRegister r.castSucc)) := by
  induction rs with
  | nil => exact .inl ⟨by simp, rfl⟩
  | cons r rest ih =>
    rw [State.withAllV]
    obtain ⟨h, e⟩ | ⟨h, e⟩ := s.withV_cases r (fun _ => s.withAllV rest go)
    · rw [e]
      obtain ⟨hr, er⟩ | ⟨q, hq, hf, er⟩ := ih
      · exact .inl ⟨by simpa [h] using hr, er⟩
      · exact .inr ⟨q, by simp [hq], hf, er⟩
    · exact .inr ⟨r, by simp, h, e⟩

theorem State.inMemory_fits (s : State) (i : Word) {k : Nat} (go : State) (h : dataAddr i k ≤ 0xFFF) :
    s.inMemory i k go = go := by
  simp [State.inMemory, Nat.not_lt.mpr h]

theorem State.inMemory_beyond (s : State) (i : Word) {k : Nat} (go : State) (h : 0xFFF < dataAddr i k) :
    s.inMemory i k go = s.raise (.memoryOutOfRange i) := by
  simp [State.inMemory, h]

theorem State.inMemory_cases (s : State) (i : Word) (k : Nat) (go : State) :
    (dataAddr i k ≤ 0xFFF ∧ s.inMemory i k go = go) ∨
    (0xFFF < dataAddr i k ∧ s.inMemory i k go = s.raise (.memoryOutOfRange i)) := by
  by_cases h : dataAddr i k ≤ 0xFFF
  · exact .inl ⟨h, s.inMemory_fits i go h⟩
  · exact .inr ⟨by omega, s.inMemory_beyond i go (by omega)⟩

theorem State.withKey_cases (s : State) (k : Byte) (go : Bool → State) :
    (k.toNat ≤ 0xF ∧ s.withKey k go = go (s.keyDown k.toNat)) ∨
    (0xF < k.toNat ∧ s.withKey k go = s.raise (.keyIndexOutOfRange k)) := by
  by_cases h : k.toNat ≤ 0xF
  · exact .inl ⟨h, by simp [State.withKey, Nat.not_lt.mpr h]⟩
  · exact .inr ⟨by omega, by simp [State.withKey, Nat.lt_of_not_le h]⟩

/-- The registers `V[0]` to `V[x]` are those numbered at most `x`. -/
@[simp] theorem mem_regsUpTo (x r : RegIdx) : r ∈ regsUpTo x ↔ r ≤ x := by
  simp [regsUpTo]

end Sys2Proof.Machine
end

