-- ==== Sys2Proof/Laws/Operands.lean ====
section
/-! SUPPORT. What the shared operand and result operations can do, each said once: skips, flagged results, the addend of FX1E, the key latches,
the draws, and the register load of FX65. -/

namespace Sys2Proof.Machine

/-- A skip moves `pc` by 2 or not at all, and changes nothing else (41_control_flow.md R123). -/
theorem State.skipIf_eq (s : State) (b : Bool) : s.skipIf b = { s with pc := if b then s.pc + 2 else s.pc } := by
  cases b <;> rfl

@[simp] theorem State.skipIf_pc (s : State) (b : Bool) : (s.skipIf b).pc = if b then s.pc + 2 else s.pc := by
  rw [State.skipIf_eq]

/-- The result, then the flag: VF holds the flag whatever the destination (42_load_and_alu.md R153). -/
theorem State.getV_writeAlu (s : State) (x q : RegIdx) (r : AluResult) :
    (s.writeAlu x r).getV q = if q = VF then r.flag else if q = x then r.value else s.getV q := by
  simp only [State.writeAlu, State.getV_setV]

@[simp] theorem flagByte_eq (b : Bool) : flagByte b = if b then 1 else 0 := rfl

/-- The immediate addend of FX1E is `X·0x100 + 0x1E` (43_index_and_memory.md R172). -/
theorem toNat_addIndexImmediate (x : RegIdx) : (zextAddr (addIndexImmediate x)).toNat = x.val * 0x100 + 0x1E := by
  revert x; decide

/-- What FX1E adds, in each of its two readings (43_index_and_memory.md R172). -/
theorem State.withIndexAddend_cases (s : State) (x : RegIdx) (go : Word → State) :
    (s.cfg.addIndexOperand = .imm12 ∧ s.withIndexAddend x go = go (zextAddr (addIndexImmediate x))) ∨
    (s.cfg.addIndexOperand = .vx ∧ s.withIndexAddend x go = s.withV x fun b => go (zextByte b)) := by
  unfold State.withIndexAddend
  split
  · rename_i h; exact .inl ⟨h, rfl⟩
  · rename_i h; exact .inr ⟨h, rfl⟩

/-- The latch of a key below 16 (10_state.md R31). -/
theorem State.keyDown_fin (s : State) (k : Fin 16) : s.keyDown k.val = s.keys[k] := by
  simp [State.keyDown, List.getD_eq_getElem?_getD]

theorem State.lowestPressed_eq_none (s : State) : s.lowestPressed = none ↔ ∀ k : Fin 16, s.keys[k] = false := by
  simp [State.lowestPressed, List.find?_eq_none]

theorem State.keys_of_lowestPressed {s : State} {k : Fin 16} (h : s.lowestPressed = some k) : s.keys[k] = true := by
  have h2 := List.find?_some h
  exact h2

/-- A draw consumes the next lined-up byte, or counts one more free value, and changes nothing else (60_exceptions.md R234). -/
theorem State.afterDraw8_eq (s : State) :
    s.afterDraw8 = { s with randomInputs := s.afterDraw8.randomInputs, draws := s.afterDraw8.draws } := by
  unfold State.afterDraw8
  split <;> rfl

/-- Each listed register is loaded from its own offset, every other keeps its value (43_index_and_memory.md R178). -/
theorem State.getV_loadRegs (i : Word) (rs : List RegIdx) (s : State) (q : RegIdx) :
    (s.loadRegs i rs).getV q = if q ∈ rs then s.readByte (dataAddr i q.val) else s.getV q := by
  induction rs generalizing s with
  | nil => simp [State.loadRegs]
  | cons r rest ih =>
    have hm : ∀ b a, (s.setV r b).readByte a = s.readByte a := fun _ _ => rfl
    rw [State.loadRegs, ih]
    by_cases h : q ∈ rest
    · simp [h, hm]
    · by_cases h2 : q = r
      · subst h2; simp [h]
      · simp [h, h2, State.getV_setV]

/-- Loading registers changes the register file and its marks, and nothing else. -/
theorem State.loadRegs_eq (i : Word) (rs : List RegIdx) (s : State) :
    s.loadRegs i rs = { s with v := (s.loadRegs i rs).v, vWritten := (s.loadRegs i rs).vWritten } := by
  induction rs generalizing s with
  | nil => rfl
  | cons r rest ih => rw [State.loadRegs, ih]; rfl

/-- `V[0]` to `V[x]` are `x + 1` registers, each at its own place in the list. -/
theorem length_regsUpTo (x : RegIdx) : (regsUpTo x).length = x.val + 1 := by
  revert x; decide

theorem regsUpTo_get (x r : RegIdx) : r ≤ x → (regsUpTo x)[r.val]? = some r := by
  revert x r; decide

/-- `canRead` of a register's name is `canReadV` of the register (10_state.md R38). -/
theorem State.canRead_castSucc (s : State) (r : RegIdx) : s.canRead r.castSucc = s.canReadV r := by
  simp [State.canRead]

theorem State.canRead_sixteen (s : State) : s.canRead 16 = s.canReadIndex := by
  simp [State.canRead]

end Sys2Proof.Machine
end

