-- ==== Sys2Proof/Laws/PerInstr.lean ====
section
/-! SUPPORT. Statements made per instruction, one lemma per constructor. `EncodeWellFormed`: the word of an instruction is one of the valid
words of 30_encoding.md R81. -/

namespace Sys2Proof.Laws.EncodeWellFormed

/-- The encoder gives a valid word (30_encoding.md R81). -/
def Statement (i : Instr) : Prop := wellFormedWord (encode i) = true

section
variable (x y : RegIdx) (n : Nibble) (nn : Byte) (nnn : Addr12)

/-- A word of a group with no secondary selector is valid (30_encoding.md R80). -/
theorem unselected_group (w : Word) (h : ∀ k ∈ [0, 8, 14, 15], w.toNat / 4096 ≠ k) : wellFormedWord w = true := by
  simp_all [wellFormedWord]

theorem gnnn {g : Nibble} (h : ∀ k ∈ [0, 8, 14, 15], g.toNat ≠ k) : wellFormedWord (wordGNNN g nnn) = true := by
  have e : (wordGNNN g nnn).toNat / 4096 = g.toNat := by rw [toNat_wordGNNN]; omega
  exact unselected_group _ (by rwa [e])

theorem gxnn {g : Nibble} (h : ∀ k ∈ [0, 8, 14, 15], g.toNat ≠ k) : wellFormedWord (wordGXNN g x nn) = true := by
  have e : (wordGXNN g x nn).toNat / 4096 = g.toNat := by rw [toNat_wordGXNN]; omega
  exact unselected_group _ (by rwa [e])

theorem gxyn {g : Nibble} (h : ∀ k ∈ [0, 8, 14, 15], g.toNat ≠ k) : wellFormedWord (wordGXYN g x y n) = true := by
  have e : (wordGXYN g x y n).toNat / 4096 = g.toNat := by rw [toNat_wordGXYN]; omega
  exact unselected_group _ (by rwa [e])

theorem group8 (h : n.toNat ∉ [0x8, 0x9, 0xA, 0xB, 0xC, 0xD, 0xF]) : wellFormedWord (wordGXYN 0x8 x y n) = true := by
  have e : (wordGXYN 0x8 x y n).toNat / 4096 = 8 := by rw [toNat_wordGXYN]; simp; omega
  have f : (wordGXYN 0x8 x y n).toNat % 16 = n.toNat := by rw [toNat_wordGXYN]; omega
  simp_all [wellFormedWord]

theorem groupE (h : nn.toNat ∈ [0x9E, 0xA1]) : wellFormedWord (wordGXNN 0xE x nn) = true := by
  have e : (wordGXNN 0xE x nn).toNat / 4096 = 14 := by rw [toNat_wordGXNN]; simp; omega
  have f : (wordGXNN 0xE x nn).toNat % 256 = nn.toNat := by rw [toNat_wordGXNN]; omega
  simp_all [wellFormedWord]

theorem groupF (h : nn.toNat ∈ [0x07, 0x0A, 0x15, 0x18, 0x1E, 0x29, 0x33, 0x55, 0x65]) :
    wellFormedWord (wordGXNN 0xF x nn) = true := by
  have e : (wordGXNN 0xF x nn).toNat / 4096 = 15 := by rw [toNat_wordGXNN]; simp; omega
  have f : (wordGXNN 0xF x nn).toNat % 256 = nn.toNat := by rw [toNat_wordGXNN]; omega
  simp_all [wellFormedWord]

theorem cls : Statement .cls := by unfold Statement; decide
theorem ret : Statement .ret := by unfold Statement; decide
theorem jp : Statement (.jp nnn) := gnnn nnn (by decide)
theorem call : Statement (.call nnn) := gnnn nnn (by decide)
theorem ldI : Statement (.ldI nnn) := gnnn nnn (by decide)
theorem jpV0 : Statement (.jpV0 nnn) := gnnn nnn (by decide)
theorem seImm : Statement (.seImm x nn) := gxnn x nn (by decide)
theorem sneImm : Statement (.sneImm x nn) := gxnn x nn (by decide)
theorem ldImm : Statement (.ldImm x nn) := gxnn x nn (by decide)
theorem addImm : Statement (.addImm x nn) := gxnn x nn (by decide)
theorem rnd : Statement (.rnd x nn) := gxnn x nn (by decide)
theorem seReg : Statement (.seReg x y) := gxyn x y 0x0 (by decide)
theorem sneReg : Statement (.sneReg x y) := gxyn x y 0x0 (by decide)
theorem drw : Statement (.drw x y n) := gxyn x y n (by decide)
theorem ldReg : Statement (.ldReg x y) := group8 x y 0x0 (by decide)
theorem orReg : Statement (.orReg x y) := group8 x y 0x1 (by decide)
theorem andReg : Statement (.andReg x y) := group8 x y 0x2 (by decide)
theorem xorReg : Statement (.xorReg x y) := group8 x y 0x3 (by decide)
theorem addReg : Statement (.addReg x y) := group8 x y 0x4 (by decide)
theorem subReg : Statement (.subReg x y) := group8 x y 0x5 (by decide)
theorem shr : Statement (.shr x y) := group8 x y 0x6 (by decide)
theorem subnReg : Statement (.subnReg x y) := group8 x y 0x7 (by decide)
theorem shl : Statement (.shl x y) := group8 x y 0xE (by decide)
theorem skp : Statement (.skp x) := groupE x 0x9E (by decide)
theorem sknp : Statement (.sknp x) := groupE x 0xA1 (by decide)
theorem ldVxDt : Statement (.ldVxDt x) := groupF x 0x07 (by decide)
theorem ldVxK : Statement (.ldVxK x) := groupF x 0x0A (by decide)
theorem ldDtVx : Statement (.ldDtVx x) := groupF x 0x15 (by decide)
theorem ldStVx : Statement (.ldStVx x) := groupF x 0x18 (by decide)
theorem addI : Statement (.addI x) := groupF x 0x1E (by decide)
theorem ldF : Statement (.ldF x) := groupF x 0x29 (by decide)
theorem ldB : Statement (.ldB x) := groupF x 0x33 (by decide)
theorem dump : Statement (.dump x) := groupF x 0x55 (by decide)
theorem load : Statement (.load x) := groupF x 0x65 (by decide)

end

end Sys2Proof.Laws.EncodeWellFormed
end

