-- ==== Sys2Proof/Laws/Step.lean ====
section
/-! SUPPORT. What a tick, an instruction and a step can do, each said once (40_cycle_and_dispatch.md R100 to R114; 60_exceptions.md R228). -/

namespace Sys2Proof.Machine

/-! ### The timer tick -/

/-- The tick changes the divider, the counters, the gate and the events, and nothing else. -/
theorem timerTick_frame (s : State) : timerTick s = { s with
    div := (timerTick s).div, dt := (timerTick s).dt, st := (timerTick s).st,
    audio := (timerTick s).audio, events := (timerTick s).events } := by
  unfold timerTick State.tickSound State.tickDelay State.audioStop
  repeat' split
  all_goals rfl

section
variable (s : State)
@[simp] theorem timerTick_v : (timerTick s).v = s.v := by rw [timerTick_frame]
@[simp] theorem timerTick_vWritten : (timerTick s).vWritten = s.vWritten := by rw [timerTick_frame]
@[simp] theorem timerTick_index : (timerTick s).index = s.index := by rw [timerTick_frame]
@[simp] theorem timerTick_indexWritten : (timerTick s).indexWritten = s.indexWritten := by rw [timerTick_frame]
@[simp] theorem timerTick_pc : (timerTick s).pc = s.pc := by rw [timerTick_frame]
@[simp] theorem timerTick_stack : (timerTick s).stack = s.stack := by rw [timerTick_frame]
@[simp] theorem timerTick_execState : (timerTick s).execState = s.execState := by rw [timerTick_frame]
@[simp] theorem timerTick_keys : (timerTick s).keys = s.keys := by rw [timerTick_frame]
@[simp] theorem timerTick_disp : (timerTick s).disp = s.disp := by rw [timerTick_frame]
@[simp] theorem timerTick_dirty : (timerTick s).dirty = s.dirty := by rw [timerTick_frame]
@[simp] theorem timerTick_mem : (timerTick s).mem = s.mem := by rw [timerTick_frame]
@[simp] theorem timerTick_cfg : (timerTick s).cfg = s.cfg := by rw [timerTick_frame]
@[simp] theorem timerTick_ir : (timerTick s).ir = s.ir := by rw [timerTick_frame]
@[simp] theorem timerTick_randomInputs : (timerTick s).randomInputs = s.randomInputs := by rw [timerTick_frame]
@[simp] theorem timerTick_draws : (timerTick s).draws = s.draws := by rw [timerTick_frame]
end

/-- The two cases of a tick: the divider counts down, or it reloads and the counters fall. -/
theorem timerTick_cases (s : State) :
    (s.div - 1 ≠ 0 ∧ timerTick s = { s with div := s.div - 1 }) ∨
    (s.div - 1 = 0 ∧ timerTick s = ({ s with div := s.cfg.timerDivider }).tickDelay.tickSound) := by
  by_cases h : s.div - 1 = 0
  · exact .inr ⟨h, by simp [timerTick, h]⟩
  · exact .inl ⟨h, by simp [timerTick, h]⟩

/-- A tick with the divider at its last count, every field at once (60_exceptions.md R228). -/
theorem timerTick_last {s : State} (h : s.div - 1 = 0) : timerTick s = { s with
    div := s.cfg.timerDivider
    dt := if s.dt = 0 then 0 else s.dt - 1
    st := if s.st = 0 then 0 else s.st - 1
    audio := if s.st.toNat = 1 then false else s.audio
    events := if s.st.toNat = 1 then s.events ++ [.stop] else s.events } := by
  have one : ∀ b : Byte, b ≠ 0 → (b - 1 = 0 ↔ b.toNat = 1) := by decide
  have delay : ∀ u : State, u.tickDelay = { u with dt := if u.dt = 0 then 0 else u.dt - 1 } := by
    intro u; unfold State.tickDelay; split
    · rename_i h0; rw [← h0]
    · rfl
  have sound : ∀ u : State, u.tickSound = { u with
      st := if u.st = 0 then 0 else u.st - 1
      audio := if u.st.toNat = 1 then false else u.audio
      events := if u.st.toNat = 1 then u.events ++ [.stop] else u.events } := by
    intro u; unfold State.tickSound; split
    · rename_i h0
      have : ¬ u.st.toNat = 1 := by rw [h0]; decide
      simp only [this, if_false]; rw [← h0]
    · rename_i h0
      split
      · rename_i h1; rw [one _ h0] at h1; simp only [h1, if_true]; rfl
      · rename_i h1; rw [one _ h0] at h1; simp only [h1, if_false]
  unfold timerTick
  rw [if_pos h, delay, sound]

theorem timerTick_div (s : State) :
    (timerTick s).div = if s.div - 1 = 0 then s.cfg.timerDivider else s.div - 1 := by
  unfold timerTick State.tickSound State.tickDelay State.audioStop
  repeat' split
  all_goals simp_all

@[simp] theorem isFaulted_timerTick (s : State) : (timerTick s).isFaulted = s.isFaulted := by
  simp [State.isFaulted]

/-! ### Instructions -/

/-- Every instruction answers a next state (a fault it raises is one, 60_exceptions.md R222). -/
theorem exec_total (i : Instr) (s : State) : ∃ t, exec i s = .next t := by
  cases i <;> exact ⟨_, rfl⟩

@[simp] theorem isFaulted_raise (s : State) (k : FaultKind) : (s.raise k).isFaulted = true := rfl

/-! ### The step -/

/-! What a step is in each execution state (40_cycle_and_dispatch.md R100). -/

theorem step_of_halted {s : State} (h : s.execState = .halted) : step s = .next s := by
  unfold step cycle; rw [h]

theorem step_of_faulted {s : State} {kind : FaultKind} {snap : Snapshot} (h : s.execState = .faulted kind snap) :
    step s = .fault (.alreadyFaulted kind snap) := by
  unfold step cycle; rw [h]

theorem step_of_awaitingKey {s : State} {r : RegIdx} (h : s.execState = .awaitingKey r) :
    step s = .next (awaitKeyCycle r s) := by
  unfold step cycle; rw [h]

theorem step_eq_runCycle {s : State} (h : s.execState = .running) : step s = runCycle s := by
  unfold step cycle; rw [h]

/-- A fetch that finds its word in memory moves `pc` past it without a wrap (40_cycle_and_dispatch.md R102). -/
theorem toNat_fetched_pc {s : State} (h : s.pc.toNat ≤ 0xFFE) : s.fetched.pc.toNat = s.pc.toNat + 2 := by
  rw [State.fetched_pc, BitVec.toNat_add]; simp; omega

/-- A running core always has a next state: a fault it raises is one (60_exceptions.md R222). -/
theorem step_of_running {s : State} (h : s.execState = .running) : ∃ t, step s = .next t := by
  rw [step_eq_runCycle h]
  unfold runCycle runFetched executeWord
  split
  · exact ⟨_, rfl⟩
  split
  · exact ⟨_, rfl⟩
  split
  · exact ⟨_, rfl⟩
  split
  · exact ⟨_, rfl⟩
  · rename_i i _
    obtain ⟨u, hu⟩ := exec_total i s.fetched
    rw [hu]; exact ⟨_, rfl⟩

/-- Everything a step that answers a next state can have done. -/
theorem step_cases {s t : State} (h : step s = .next t) :
    (s.execState = .halted ∧ t = s) ∨
    (∃ r, s.execState = .awaitingKey r ∧ t = awaitKeyCycle r s) ∨
    (s.execState = .running ∧ 0xFFF ≤ s.pc.toNat ∧ t = { s with execState := .halted }) ∨
    (s.execState = .running ∧ s.pc.toNat ≤ 0xFFE ∧ s.pcMisaligned = true ∧
      t = s.raiseWith none (.misalignedPc s.pc)) ∨
    (s.execState = .running ∧ s.pc.toNat = 0xFFE ∧ s.pcMisaligned = false ∧
      t = { s.fetched with execState := .halted }) ∨
    (s.execState = .running ∧ s.pc.toNat < 0xFFE ∧ s.pcMisaligned = false ∧
      (∃ e, decodeWord (s.readWord s.pc.toNat) = .error e) ∧
      t = s.fetched.raise (.invalidOpcode (s.readWord s.pc.toNat))) ∨
    (∃ i u, Executes s i ∧ exec i s.fetched = .next u ∧ t = finishCycle u) := by
  unfold step cycle at h
  split at h
  · rename_i he; cases h; exact .inl ⟨he, rfl⟩
  · cases h
  · rename_i r he; cases h; exact .inr (.inl ⟨r, he, rfl⟩)
  · rename_i he
    refine .inr (.inr ?_)
    unfold runCycle at h
    split at h
    · rename_i hp; cases h
      simp [State.pcBeyondMemory, memSize] at hp
      exact .inl ⟨he, by omega, rfl⟩
    · rename_i hp
      simp [State.pcBeyondMemory, memSize] at hp
      split at h
      · rename_i hm; cases h
        exact .inr (.inl ⟨he, by omega, hm, rfl⟩)
      · rename_i hm
        have hm : s.pcMisaligned = false := by simpa using hm
        have hpc : (s.pc + 2).toNat = s.pc.toNat + 2 := by
          rw [BitVec.toNat_add]; simp; omega
        unfold runFetched at h
        simp only [State.fetched_pc, hpc, memSize] at h
        split at h
        · cases h
          exact .inr (.inr (.inl ⟨he, by omega, hm, rfl⟩))
        · unfold executeWord at h
          cases hd : decodeWord (s.readWord s.pc.toNat) with
          | error e =>
            rw [hd] at h; cases h
            exact .inr (.inr (.inr (.inl ⟨he, by omega, hm, ⟨e, rfl⟩, rfl⟩)))
          | ok i =>
            rw [hd] at h
            obtain ⟨u, hu⟩ := exec_total i s.fetched
            simp only [hu] at h
            cases h
            exact .inr (.inr (.inr (.inr ⟨i, u, ⟨he, by omega, hm, hd⟩, hu, rfl⟩)))

end Sys2Proof.Machine
end

