-- ==== Sys2Proof/Tests/Slice0.lean ====
section
/-! SUPPORT. The model's own tests: the checks refuse ill-formed terms, words written out from the spec decode to what they stand for, single
steps give the vectors of 95_test_vectors.md, and for every obligation with hypotheses a concrete state and operands that meet them. -/

namespace Sys2Proof.Tests

open Machine

/-! ### Builders -/

/-- Parameters with a font base, so that every byte of memory evaluates. -/
def cfg : Config := { Config.default with fontBase := some 0x050 }

/-- The same under `ResetRegisterPolicy = Unwritten`. -/
def cfgUnwritten : Config := { cfg with resetRegisterPolicy := .unwritten }

/-- A core as constructed. -/
def base : State := State.construct cfg

/-- A core as constructed under `Unwritten`. -/
def fresh : State := State.construct cfgUnwritten

/-- Sets registers. -/
def State.regs (s : State) : List (RegIdx × Byte) → State
  | [] => s
  | (r, b) :: rest => State.regs (s.setV r b) rest

/-- The state a step leaves, or the same state if it leaves none. -/
def after (s : State) : State :=
  match step s with
  | .next t => t
  | .fault _ => s
  | .refused _ => s

/-- Does the state have a next one? -/
def steps (s : State) : Bool :=
  match step s with
  | .next _ => true
  | .fault _ => false
  | .refused _ => false

theorem step_after {s : State} (h : steps s = true) : step s = .next (after s) := by
  unfold steps at h
  unfold after
  cases e : step s <;> simp_all

/-- One step of a word in a state. -/
def run (w : Nat) (s : State) : State := after (s.withFetchWord 16 w)

/-- One step of a word with registers set. -/
def runWith (w : Nat) (rs : List (RegIdx × Byte)) : State := run w (State.regs base rs)

/-! ### The checks refuse ill-formed terms -/

theorem test_wellFormed_refuses_group0 : wellFormedWord 0x0000 = false := by decide
theorem test_wellFormed_refuses_group8 : wellFormedWord 0x8008 = false := by decide
theorem test_wellFormed_refuses_groupE : wellFormedWord 0xE0A2 = false := by decide
theorem test_wellFormed_refuses_groupF : wellFormedWord 0xF01F = false := by decide
theorem test_wellFormed_refuses_divider : ¬ ({ cfg with timerDivider := 0 } : Config).wellFormed := by decide
theorem test_wellFormed_refuses_program : ¬ wellFormedProgram (List.replicate 3585 0x00) := by
  have h : ∀ n, 3584 < n → ¬ wellFormedProgram (List.replicate n (0x00 : Byte)) := by
    intro n hn; rw [wellFormedProgram, List.length_replicate]; omega
  exact h 3585 (by decide)

/-! ### Decoding: every constructor, by a word written out from 30_encoding.md section 2 and 95_test_vectors.md -/

/-- V1, V2, E2: `w[15:12]` 0 to 5, 9 and B. -/
theorem test_decode_control :
    decodeWord 0x00EE = .ok .ret ∧ decodeWord 0x0FEE = .ok .ret ∧ decodeWord 0x1ABC = .ok (.jp 0xABC) ∧
    decodeWord 0x2350 = .ok (.call 0x350) ∧ decodeWord 0x3005 = .ok (.seImm 0 0x05) ∧
    decodeWord 0x4311 = .ok (.sneImm 3 0x11) ∧ decodeWord 0x5AB3 = .ok (.seReg 0xA 0xB) ∧
    decodeWord 0x912F = .ok (.sneReg 1 2) ∧ decodeWord 0xB300 = .ok (.jpV0 0x300) := by decide

/-- V3, and P1 for 8106: `w[15:12]` 6, 7, 8 and C. -/
theorem test_decode_loads_and_alu :
    decodeWord 0x6F42 = .ok (.ldImm 0xF 0x42) ∧ decodeWord 0x70FF = .ok (.addImm 0 0xFF) ∧
    decodeWord 0x8010 = .ok (.ldReg 0 1) ∧ decodeWord 0x8F01 = .ok (.orReg 0xF 0) ∧
    decodeWord 0x8012 = .ok (.andReg 0 1) ∧ decodeWord 0x8013 = .ok (.xorReg 0 1) ∧
    decodeWord 0x81F4 = .ok (.addReg 1 0xF) ∧ decodeWord 0x8015 = .ok (.subReg 0 1) ∧
    decodeWord 0x8106 = .ok (.shr 1 0) ∧ decodeWord 0x8017 = .ok (.subnReg 0 1) ∧
    decodeWord 0x801E = .ok (.shl 0 1) ∧ decodeWord 0xC00F = .ok (.rnd 0 0x0F) := by decide

/-- V1, V4, V5, V6, and P6 for A20C: `w[15:12]` 0, A, D, E and F. -/
theorem test_decode_index_display_keys_timers :
    decodeWord 0xA20C = .ok (.ldI 0x20C) ∧ decodeWord 0xFF1E = .ok (.addI 0xF) ∧ decodeWord 0xF229 = .ok (.ldF 2) ∧
    decodeWord 0xF033 = .ok (.ldB 0) ∧ decodeWord 0xF155 = .ok (.dump 1) ∧ decodeWord 0xF265 = .ok (.load 2) ∧
    decodeWord 0x0AE0 = .ok .cls ∧ decodeWord 0xD012 = .ok (.drw 0 1 2) ∧ decodeWord 0xE19E = .ok (.skp 1) ∧
    decodeWord 0xE1A1 = .ok (.sknp 1) ∧ decodeWord 0xF107 = .ok (.ldVxDt 1) ∧ decodeWord 0xF30A = .ok (.ldVxK 3) ∧
    decodeWord 0xF015 = .ok (.ldDtVx 0) ∧ decodeWord 0xF018 = .ok (.ldStVx 0) := by decide

/-- V1: the invalid words of the table. -/
theorem test_decode_invalid :
    decodeWord 0x0000 = .error (.invalidOpcode 0x0000) ∧ decodeWord 0x0123 = .error (.invalidOpcode 0x0123) ∧
    decodeWord 0x00FF = .error (.invalidOpcode 0x00FF) ∧ decodeWord 0x800D = .error (.invalidOpcode 0x800D) ∧
    decodeWord 0xE0A2 = .error (.invalidOpcode 0xE0A2) ∧ decodeWord 0xF000 = .error (.invalidOpcode 0xF000) := by decide

/-- 30_encoding.md R70, 20_memory.md R51: two bytes, the high one first; a lone byte is no instruction. -/
theorem test_decode_bytes : decodeBytes [0x23, 0x50, 0x99] = .ok (.call 0x350, [0x99]) ∧
    decodeBytes [0x23] = .error .truncated ∧ decodeTableWord 16 0x2350 = some (.call 0x350) := by decide

/-! ### Single steps: control transfer (V2) -/

theorem test_jp : (run 0x1ABC base).pc = 0xABC := by decide
theorem test_call : (run 0x2350 { base with pc := 0x202 }).stack = [0x204] ∧
    (run 0x2350 { base with pc := 0x202 }).pc = 0x350 := by decide
theorem test_call_full : (run 0x2400 { base with pc := 0x300, stack := List.replicate 16 0x222 }).execState =
    .faulted .stackOverflow ⟨List.replicate 16 0x222, 0x302, 0, false, base.v, base.vWritten, some 0x2400⟩ := by decide
theorem test_ret : (run 0x00EE { base with pc := 0x350, stack := [0x208, 0x204] }).stack = [0x208] ∧
    (run 0x00EE { base with pc := 0x350, stack := [0x208, 0x204] }).pc = 0x204 := by decide
theorem test_ret_empty : (run 0x00EE { base with pc := 0x350 }).execState =
    .faulted .stackUnderflow ⟨[], 0x352, 0, false, base.v, base.vWritten, some 0x00EE⟩ := by decide
theorem test_se_imm : (runWith 0x3005 [(0, 5)]).pc = 0x204 ∧ (runWith 0x3005 [(0, 4)]).pc = 0x202 := by decide
theorem test_sne_imm : (runWith 0x4311 [(3, 0x10)]).pc = 0x204 ∧ (runWith 0x4310 [(3, 0x10)]).pc = 0x202 := by decide
theorem test_se_reg : (runWith 0x5127 [(1, 7), (2, 7)]).pc = 0x204 ∧ (runWith 0x5120 [(1, 7), (2, 8)]).pc = 0x202 := by decide
theorem test_sne_reg : (runWith 0x9120 [(1, 7), (2, 8)]).pc = 0x204 ∧ (runWith 0x9110 [(1, 7)]).pc = 0x202 := by decide
theorem test_jp_v0 : (runWith 0xBFFF [(0, 0xFF)]).pc = 0x10FE := by decide

/-! ### Loads, arithmetic, random (V3) -/

theorem test_ld_imm : (run 0x6F42 base).getV VF = 0x42 := by decide
theorem test_add_imm_wraps : (runWith 0x7001 [(0, 0xFF), (15, 0x55)]).getV 0 = 0x00 ∧
    (runWith 0x7001 [(0, 0xFF), (15, 0x55)]).getV VF = 0x55 := by decide
theorem test_add_imm_writes_vf :
    (run 0x7001 (State.regs { base with cfg := { cfg with addImmWritesVF := true } } [(0, 0xFF), (15, 0x55)])).getV VF = 0x01 := by decide
theorem test_ld_reg : (runWith 0x8010 [(1, 0x42)]).getV 0 = 0x42 := by decide
theorem test_or : (runWith 0x8011 [(0, 0xF0), (1, 0x0F), (15, 0x55)]).getV 0 = 0xFF := by decide
theorem test_or_into_vf : (runWith 0x8F01 [(15, 0x0F), (0, 0xF0)]).getV VF = 0xFF := by decide
theorem test_and : (runWith 0x8012 [(0, 0xF0), (1, 0x3C)]).getV 0 = 0x30 := by decide
theorem test_xor : (runWith 0x8013 [(0, 0xF0), (1, 0x3C)]).getV 0 = 0xCC := by decide
theorem test_add_reg : (runWith 0x81F4 [(1, 0x10), (15, 0x05)]).getV 1 = 0x15 ∧
    (runWith 0x81F4 [(1, 0x10), (15, 0x05)]).getV VF = 0x00 := by decide
theorem test_add_reg_into_vf : (runWith 0x8F14 [(15, 0x90), (1, 0x90)]).getV VF = 0x01 := by decide
theorem test_sub_borrows : (runWith 0x8015 [(0, 0x03), (1, 0x05)]).getV 0 = 0xFE ∧
    (runWith 0x8015 [(0, 0x03), (1, 0x05)]).getV VF = 0x01 := by decide
theorem test_sub_equal : (runWith 0x8015 [(0, 0x05), (1, 0x05), (15, 1)]).getV VF = 0x00 := by decide
theorem test_subn : (runWith 0x8017 [(0, 0x05), (1, 0x03)]).getV 0 = 0xFE ∧
    (runWith 0x8017 [(0, 0x05), (1, 0x03)]).getV VF = 0x01 := by decide
theorem test_shr : (runWith 0x8006 [(0, 0xFF)]).getV 0 = 0x7F ∧ (runWith 0x8F06 [(15, 0x03)]).getV VF = 0x01 := by decide
theorem test_shr_vy : (run 0x8016 (State.regs { base with cfg := { cfg with shiftSource := .vy } } [(0, 0xFF), (1, 0x02)])).getV 0 = 0x01 := by decide
theorem test_shl : (runWith 0x800E [(0, 0x81)]).getV 0 = 0x02 ∧ (runWith 0x800E [(0, 0x81)]).getV VF = 0x80 := by decide
theorem test_shl_into_vf : (runWith 0x8F0E [(15, 0xC1)]).getV VF = 0x80 := by decide
theorem test_rnd : (run 0xC00F { base with randomInputs := [0xA7, 0x11] }).getV 0 = 0x07 ∧
    (run 0xC00F { base with randomInputs := [0xA7, 0x11] }).randomInputs = [0x11] := by decide

/-! ### Index and memory (V4) -/

theorem test_ld_i : (run 0xA300 base).index = 0x300 := by decide
theorem test_add_i_overflows_12_bits : (run 0xF01E { base with index := 0xFE2 }).index = 0x1000 ∧
    (run 0xF01E { base with index := 0xFE2 }).getV VF = 1 := by decide
theorem test_add_i_faults : (run 0xFF1E { base with index := 0xF500 }).execState =
    .faulted (.indexOverflow 0x1041E) ⟨[], 0x202, 0xF500, false, base.v, base.vWritten, some 0xFF1E⟩ := by decide
theorem test_ld_f : (runWith 0xF229 [(2, 0x0F)]).index = 0x050 + 0x4B := by decide
theorem test_font_byte : base.readByte (0x050 + 0x4B) = 0xF0 ∧ base.readByte (0x050 + 0x4F) = 0x80 := by decide
/-- The three bytes from an address. -/
def bytes3 (s : State) (a : Nat) : List Byte := [s.readByte a, s.readByte (a + 1), s.readByte (a + 2)]

theorem test_ld_b : bytes3 (run 0xF033 (State.regs { base with index := 0xFFD } [(0, 0x64)])) 0xFFD = [1, 0, 0] := by decide
theorem test_ld_b_beyond : (run 0xF033 { base with index := 0xFFE }).execState =
    .faulted (.memoryOutOfRange 0xFFE) ⟨[], 0x202, 0xFFE, false, base.v, base.vWritten, some 0xF033⟩ := by decide
theorem test_dump : bytes3 (run 0xF255 (State.regs { base with index := 0x500 } [(0, 1), (1, 2), (2, 3)])) 0x500 = [1, 2, 3] ∧
    (run 0xF255 (State.regs { base with index := 0x500 } [(0, 1), (1, 2), (2, 3)])).index = 0x503 := by decide
theorem test_dump_beyond : (run 0xF155 { base with index := 0xFFF }).isFaulted = true ∧
    (run 0xF055 { base with index := 0xFFF }).index = 0x1000 := by decide
theorem test_load_regs : (run 0xF265 (({ base with index := 0x400 } : State).writeBytes 0x400 [2, 5, 4])).getV 2 = 4 ∧
    (run 0xF265 (({ base with index := 0x400 } : State).writeBytes 0x400 [2, 5, 4])).index = 0x403 := by decide
theorem test_load_into_vf : (run 0xFF65 (({ base with index := 0x400 } : State).writeByte 0x40F 0x77)).getV VF = 0x77 := by decide

/-! ### Display (V5) -/

theorem test_cls : Display.get (run 0x00E0 { base with disp := Display.toggle Display.blank 63 31 }).disp 63 31 = false ∧
    (run 0x00E0 base).dirty = true := by decide
/-- `disp[63][31]` set, origin (63, 31), sprite byte C0: the pixel is cleared, column 64 discarded, VF is 1. -/
theorem test_drw_clips :
    Display.get (run 0xD011 (State.regs (({ base with index := 0x300, disp := Display.toggle Display.blank 63 31 } : State).writeByte 0x300 0xC0)
      [(0, 63), (1, 31)])).disp 63 31 = false ∧
    (run 0xD011 (State.regs (({ base with index := 0x300, disp := Display.toggle Display.blank 63 31 } : State).writeByte 0x300 0xC0)
      [(0, 63), (1, 31)])).getV VF = 1 := by decide
/-- `X = F`: the origin column is VF's old value. -/
theorem test_drw_reads_old_vf :
    Display.get (run 0xDF01 (State.regs (({ base with index := 0x300 } : State).writeByte 0x300 0x80) [(15, 5)])).disp 5 0 = true ∧
    (run 0xDF01 (State.regs (({ base with index := 0x300 } : State).writeByte 0x300 0x80) [(15, 5)])).getV VF = 0 := by decide

/-! ### Keys and timers (V6) -/

theorem test_skp : (run 0xE19E (keyPressed 5 (State.regs base [(1, 5)]))).pc = 0x204 ∧
    (run 0xE19E (State.regs base [(1, 5)])).pc = 0x202 := by decide
theorem test_skp_beyond : (runWith 0xE19E [(1, 0x10)]).isFaulted = true ∧ (runWith 0xE19E [(1, 0x10)]).pc = 0x202 := by decide
theorem test_sknp : (run 0xE1A1 (State.regs base [(1, 5)])).pc = 0x204 := by decide
theorem test_ld_vx_k : (run 0xF30A (keyPressed 9 (keyPressed 4 base))).getV 3 = 4 := by decide
theorem test_ld_vx_k_waits : (run 0xF30A base).execState = .awaitingKey 3 ∧ (run 0xF30A base).pc = 0x202 := by decide
theorem test_await_resolves : (after (keyPressed 9 { base with execState := .awaitingKey 3 })).getV 3 = 9 ∧
    (after (keyPressed 9 { base with execState := .awaitingKey 3 })).execState = .running := by decide
theorem test_ld_vx_dt : (run 0xF107 { base with dt := 0x3C }).getV 1 = 0x3C := by decide
theorem test_ld_dt_vx : (run 0xF015 (State.regs { base with div := 1 } [(0, 0x3C)])).dt = 0x3B ∧
    (run 0xF015 (State.regs { base with div := 1 } [(0, 0x3C)])).div = 4 := by decide
theorem test_ld_st_vx : (run 0xF018 (State.regs { base with div := 1 } [(0, 1)])).events = [.start, .stop] ∧
    (run 0xF018 (State.regs { base with div := 1 } [(0, 1)])).audio = false := by decide
theorem test_ld_st_zero : (run 0xF018 { base with st := 3, audio := true }).audio = true ∧
    (run 0xF018 { base with st := 3, audio := true }).st = 0 := by decide
theorem test_tick : (timerTick { base with div := 1, st := 1, audio := true }).events = [.stop] ∧
    (timerTick { base with div := 3, dt := 2 }).dt = 2 := by decide

/-! ### The cycle (V7) -/

theorem test_halt_after_fetch : (after (({ base with pc := 0xFFE } : State).writeBytes 0xFFE [0x63, 0x03])).pc = 0x1000 ∧
    (after (({ base with pc := 0xFFE } : State).writeBytes 0xFFE [0x63, 0x03])).execState = .halted ∧
    (after (({ base with pc := 0xFFE } : State).writeBytes 0xFFE [0x63, 0x03])).div = 4 := by decide
theorem test_halt_beyond : (after { base with pc := 0x10FE }).execState = .halted ∧ (after { base with pc := 0x10FE }).pc = 0x10FE := by decide
theorem test_odd_pc : (run 0x6007 { base with pc := 0x201 }).getV 0 = 7 ∧ (run 0x6007 { base with pc := 0x201 }).pc = 0x203 := by decide
theorem test_odd_pc_faults : (after { base with pc := 0x201, cfg := { cfg with oddPcPolicy := .fault } }).execState =
    .faulted (.misalignedPc 0x201) ⟨[], 0x201, 0, false, base.v, base.vWritten, none⟩ := by decide
theorem test_unwritten : (run 0x8014 fresh).execState =
    .faulted (.unwrittenRegister 0) ⟨[], 0x202, 0, false, base.v, base.vWritten, some 0x8014⟩ := by decide
theorem test_reset_meets_the_zero_word : (after State.reset).execState =
    .faulted (.invalidOpcode 0x0000) ⟨[], 0x202, 0, false, base.v, base.vWritten, some 0x0000⟩ := by decide
theorem test_load : loadProgram [0x60, 0x05] base = .ok { base with mem := [(0x200, 0x60), (0x201, 0x05)] } := by decide

/-! ### Witnesses: for each obligation with hypotheses, a state and operands that meet them, at the edges of their ranges

A hypothesis that only reads `V[x]`, `V[y]` or `I` (`canReadV`, `canReadIndex`) is met by `base`, whose policy is `Zero`, and under `Unwritten` by
a register that has been written. -/

theorem witness_readable : base.canReadV 0 = true ∧ base.canReadV 15 = true ∧ base.canReadIndex = true ∧
    (fresh.setV 3 7).canReadV 3 = true ∧ fresh.canReadV 3 = false ∧ fresh.canReadIndex = false ∧
    (fresh.setIndex 0x300).canReadIndex = true := by decide

theorem witness_EncodeOfDecodeClearsIgnoredBits : decodeWord 0x0AE0 = .ok .cls ∧ encode .cls = 0x0AE0 &&& ~~~ignoredBits 0x0AE0 := by decide

theorem witness_InvalidWordsAreExactlyTheListedOnes : wellFormedWord 0x8008 = false ∧ wellFormedWord 0x8007 = true := by decide

theorem witness_PrimaryDispatch : fieldG 0x0FEE = 0x0 ∧ fieldG 0x1000 = 0x1 ∧ fieldG 0x2FFF = 0x2 ∧ fieldG 0x3000 = 0x3 ∧
    fieldG 0x4000 = 0x4 ∧ fieldG 0x500F = 0x5 ∧ fieldG 0x6000 = 0x6 ∧ fieldG 0x7000 = 0x7 ∧ fieldG 0x900F = 0x9 ∧
    fieldG 0xA000 = 0xA ∧ fieldG 0xB000 = 0xB ∧ fieldG 0xC000 = 0xC ∧ fieldG 0xD000 = 0xD := by decide

theorem witness_MemoryReadsAsLastWritten : Memory.wf base.cfg base.mem ∧ 0xFFF < 0x1000 := by decide

theorem witness_ProgramLoadFillsFromTheProgramBase : Memory.wf base.cfg base.mem ∧
    (List.replicate 0xE00 (0x60 : Byte)).length ≤ 0xE00 ∧ 0xE00 < (List.replicate 0xE01 (0x60 : Byte)).length := by
  refine ⟨by decide, ?_, ?_⟩ <;> rw [List.length_replicate]
  decide

/-- At 0x200, and at 0xFFD, the last address whose word executes. -/
theorem witness_StepRunsTheDecodedInstruction : Executes (base.withFetchWord 16 0x6005) (.ldImm 0 5) ∧
    Executes (({ base with pc := 0xFFD } : State).withFetchWord 16 0x6005) (.ldImm 0 5) := by
  constructor <;> exact ⟨by decide, by decide, by decide, by decide⟩

theorem witness_InvalidWordRaisesInvalidOpcode : base.execState = .running ∧ base.pc.toNat + 2 < 0x1000 ∧ base.pcMisaligned = false ∧
    0x0000 = base.readWord base.pc.toNat ∧ decodeWord 0x0000 = .error (.invalidOpcode 0x0000) := by decide

theorem witness_HaltsExactlyAtTheTopOfMemory : base.execState = .running ∧ 0xFFF ≤ ({ base with pc := 0xFFF } : State).pc.toNat ∧
    ({ base with pc := 0xFFE } : State).pc.toNat = 0xFFE ∧ ({ base with pc := 0xFFD } : State).pc.toNat < 0xFFE ∧
    step (({ base with pc := 0xFFD } : State).withFetchWord 16 0x00E0) = .next (after (({ base with pc := 0xFFD } : State).withFetchWord 16 0x00E0)) :=
  ⟨by decide, by decide, by decide, by decide, step_after (by decide)⟩

theorem witness_HaltedCycleChangesNothing : ({ base with execState := .halted } : State).execState = .halted := rfl

theorem witness_FaultedCoreHasNoStep : (base.raise .stackUnderflow).execState = .faulted .stackUnderflow (base.snapshot none) := rfl

theorem witness_AwaitingKeyResolvesToTheLowestKey : ({ base with execState := .awaitingKey 15 } : State).execState = .awaitingKey 15 ∧
    (∀ k : Fin 16, base.keys[k] = false) ∧
    (keyPressed 15 base).keys[(15 : Fin 16)] = true ∧ (∀ j : Fin 16, j < 15 → (keyPressed 15 base).keys[j] = false) := by decide

/-- A step from each execution state that has one. -/
theorem witness_ExecutionStateTransitions : step (base.withFetchWord 16 0xF30A) = .next (run 0xF30A base) ∧
    step { base with execState := .awaitingKey 3 } = .next (after { base with execState := .awaitingKey 3 }) ∧
    step { base with execState := .halted } = .next { base with execState := .halted } :=
  ⟨step_after (by decide), step_after (by decide), rfl⟩

/-- A ticking cycle, an AwaitingKey cycle, and a cycle that faults. -/
theorem witness_DividerCountsTheTickingCycles :
    step (base.withFetchWord 16 0x6005) = .next (run 0x6005 base) ∧ (run 0x6005 base).isFaulted = false ∧
    (run 0x6005 base).execState ≠ .halted ∧ step base = .next (after base) ∧ (after base).isFaulted = true :=
  ⟨step_after (by decide), by decide, by decide, step_after (by decide), by decide⟩

theorem witness_TimerTickRule : 1 ≤ ({ base with div := 1 } : State).div ∧ 2 ≤ base.div ∧
    ({ base with div := 1, st := 1 } : State).st.toNat = 1 ∧ base.st.toNat ≠ 1 := by decide

theorem witness_CountersFallOncePerDividerPeriod : 1 ≤ ({ base with st := 5, audio := true } : State).div ∧
    ({ base with st := 5, audio := true } : State).div ≤ base.cfg.timerDivider ∧ ({ base with st := 5, audio := true } : State).st ≠ 0 := by decide

/-- Under `Fetch` at an odd `pc`, and at an even `pc`, a step that raises another fault; under `Fault` at 0xFFD, an odd `pc` in memory; 0xFFF, the first that halts. -/
theorem witness_OddPcFaultsOnlyUnderTheFaultPolicy :
    ({ base with pc := 0x201 } : State).execState = .running ∧ ({ base with pc := 0x201 } : State).cfg.oddPcPolicy = .fetch ∧
    step { base with pc := 0x201 } = .next (after { base with pc := 0x201 }) ∧ (after { base with pc := 0x201 }).isFaulted = true ∧
    base.pc.toNat % 2 = 0 ∧ step base = .next (after base) ∧
    ({ base with pc := 0xFFD, cfg := { cfg with oddPcPolicy := .fault } } : State).cfg.oddPcPolicy = .fault ∧
    ({ base with pc := 0xFFD } : State).pc.toNat % 2 = 1 ∧ ({ base with pc := 0xFFD } : State).pc.toNat + 2 ≤ 0x1000 ∧
    0x1000 < ({ base with pc := 0xFFF } : State).pc.toNat + 2 :=
  ⟨rfl, rfl, step_after (by decide), by decide, by decide, step_after (by decide), rfl, by decide, by decide, by decide⟩

theorem witness_FaultsArePrecise : base.execState = .running ∧ step base = .next (after base) ∧
    (after base).execState = .faulted (.invalidOpcode 0x0000) ⟨[], 0x202, 0, false, base.v, base.vWritten, some 0x0000⟩ :=
  ⟨rfl, step_after (by decide), by decide⟩

/-- A fault the instruction's own rule raises, and one of an unwritten register. -/
theorem witness_FaultKindsOfEachInstruction : base.isFaulted = false ∧ exec .ret base = .next (base.raise .stackUnderflow) ∧
    exec (.addReg 0 1) fresh = .next (fresh.raise (.unwrittenRegister 0)) := ⟨rfl, rfl, rfl⟩

/-- `V[0]` first in 8014; `V[1]` once `V[0]` is written; in FX55 with `I` written, `V[0]`, at the last `I` in range. -/
theorem witness_FirstUnwrittenRegisterReadFaults :
    ((Instr.addReg 0 1).reads cfgUnwritten).find? (fun q => !fresh.canRead q) = some 0 ∧
    ((Instr.addReg 0 1).reads cfgUnwritten).find? (fun q => !(fresh.setV 0 1).canRead q) = some 1 ∧
    ((Instr.dump 1).reads cfgUnwritten).find? (fun q => !(fresh.setIndex 0xFFE).canRead q) = some 0 ∧
    (fresh.setIndex 0xFFE).index.toNat + 1 ≤ 0xFFF := by decide

/-- One call deep, sounding, at the highest `pc` a jump reaches. -/
def busy : State := { base with pc := 0x10FE, stack := [0xFFF], st := 1, audio := true, events := [.start], div := 1 }

/-- Memory holds the two bytes 12 08 at 0x200: JP 208. -/
def looping : State := { base with mem := [(0x200, 0x12), (0x201, 0x08)] }

theorem busy_inv : Machine.Invariant busy :=
  ⟨by decide, by decide, by decide, by simp [busy], by decide, by decide, by decide, by decide, by decide, fun _ _ h => nomatch (show ExecState.running = .faulted _ _ from h)⟩

theorem looping_inv : Machine.Invariant looping :=
  ⟨by decide, by decide, by decide, by simp [looping, base, State.construct], by decide, by decide, by decide, by decide, by decide, fun _ _ h => nomatch (show ExecState.running = .faulted _ _ from h)⟩

theorem witness_StepKeepsTheInvariant : Machine.Invariant busy ∧ step busy = .next (after busy) ∧ Machine.Invariant looping ∧ step looping = .next (after looping) :=
  ⟨busy_inv, step_after (by decide), looping_inv, step_after (by decide)⟩

theorem witness_ConstructionMeetsTheInvariant : cfg.wellFormed := by decide

theorem witness_HostKeepsTheInvariant : loadProgram [0x60, 0x05] base = .ok { base with mem := [(0x200, 0x60), (0x201, 0x05)] } := by decide

/-- A core in a loop executes JP, so no key instruction, and awaits no key. -/
theorem witness_OnlyTheHostWritesTheKeyLatches : step looping = .next (after looping) ∧
    exec (.jp 0xABC) base = .next (base.setPc 0xABC) ∧ (∀ r, looping.execState ≠ .awaitingKey r) ∧
    (∀ x, ¬ Executes looping (.skp x)) ∧ (∀ x, ¬ Executes looping (.sknp x)) ∧ (∀ x, ¬ Executes looping (.ldVxK x)) := by
  have h : decodeWord (looping.readWord looping.pc.toNat) = .ok (.jp 0x208) := by decide
  have other : ∀ i, i ≠ .jp 0x208 → ¬ Executes looping i := by
    intro i hi he
    have := he.decodes
    rw [h] at this
    exact hi (Except.ok.inj this).symm
  exact ⟨step_after (by decide), rfl, nofun, fun x => other _ nofun, fun x => other _ nofun, fun x => other _ nofun⟩

theorem witness_OnlyClearAndDrawWriteTheDisplay : step (base.withFetchWord 16 0x00E0) = .next (run 0x00E0 base) ∧
    (run 0x00E0 base).dirty ≠ base.dirty ∧ Executes (base.withFetchWord 16 0x00E0) .cls ∧
    Executes (base.withFetchWord 16 0xD001) (.drw 0 0 1) ∧ (run 0xD001 base).isFaulted = false :=
  ⟨step_after (by decide), by decide, ⟨by decide, by decide, by decide, by decide⟩, ⟨by decide, by decide, by decide, by decide⟩, by decide⟩

theorem witness_GateFollowsTheEvents : step (base.withFetchWord 16 0x00E0) = .next (run 0x00E0 base) := step_after (by decide)

theorem witness_OutputsNeverInfluenceTheCore : SameButOutputs base { base with audio := true, dirty := true, events := [.start], cfg := { cfg with audioSinkPresent := false } } ∧ step base = .next (after base) ∧
    SameButOutputs (base.raise .stackUnderflow) ((base.raise .stackUnderflow).audioStart) ∧
    step (base.raise .stackUnderflow) = .fault (.alreadyFaulted .stackUnderflow (base.snapshot none)) :=
  ⟨rfl, step_after (by decide), rfl, rfl⟩

theorem witness_HowThePcMoves : Machine.Invariant looping ∧ Executes looping (.jp 0x208) ∧ step looping = .next (after looping) ∧
    (after looping).isFaulted = false ∧ step { base with execState := .awaitingKey 3 } = .next (after { base with execState := .awaitingKey 3 }) ∧
    0xFFE ≤ ({ base with pc := 0xFFE } : State).pc.toNat ∧ step { base with pc := 0xFFE } = .next (after { base with pc := 0xFFE }) :=
  ⟨looping_inv, ⟨by decide, by decide, by decide, by decide⟩, step_after (by decide), by decide, step_after (by decide), by decide,
    step_after (by decide)⟩

theorem witness_ReturnPopsTheStack : ({ base with stack := [0x208] ++ [0x204] } : State).stack = [0x208] ++ [0x204] ∧ base.stack = [] :=
  ⟨rfl, rfl⟩

theorem witness_CallPushesTheReturnAddress : ({ base with stack := List.replicate 15 0x204 } : State).stack.length < 16 ∧
    ({ base with stack := List.replicate 16 0x204 } : State).stack.length = 16 := by decide

theorem witness_SkipsCompareRegisters : base.canReadV 1 = true ∧ base.canReadV 2 = true := by decide

/-- `V[0]` readable under either policy. -/
theorem witness_JumpWithOffsetAddsV0 : base.canReadV 0 = true ∧ (fresh.setV 0 0xFF).canReadV 0 = true := by decide

theorem witness_AssignAndLogicWriteOnlyTheResult : base.canReadV 0 = true ∧ base.canReadV 15 = true ∧ (0 : RegIdx) ≠ VF := by decide

theorem witness_AddWritesSumThenCarry : base.canReadV VF = true ∧ base.canReadV 0 = true ∧ (0 : RegIdx) ≠ VF := by decide

theorem witness_SubtractWritesDifferenceThenBorrow : base.canReadV VF = true ∧ base.canReadV 0 = true ∧ (0 : RegIdx) ≠ VF := by decide

theorem witness_AddImmediateWrapsModulo256 : base.canReadV 0 = true ∧ base.canReadV VF = true ∧ base.cfg.addImmWritesVF = false ∧
    ({ base with cfg := { cfg with addImmWritesVF := true } } : State).cfg.addImmWritesVF = true ∧ (0 : RegIdx) ≠ VF := by decide

theorem witness_ShiftsLeaveTheLostBitInVF : base.canReadV 0 = true ∧ base.canReadV 1 = true ∧ (0 : RegIdx) = (if base.cfg.shiftSource = .vx then 0 else 1) ∧
    (1 : RegIdx) = (if ({ base with cfg := { cfg with shiftSource := .vy } } : State).cfg.shiftSource = .vx then 0 else 1) := by decide

theorem witness_RandomIsAMaskedDraw : ({ base with randomInputs := [0xA7] } : State).randomInputs = [0xA7] ∧ base.randomInputs = [] := ⟨rfl, rfl⟩

/-- The sum 0xFFFF, the last that is stored, and 0x10000, the first that faults, under `Vx`; 0xF1E + 0xF0E1 under `Imm12`. -/
theorem witness_AddToIndexDetectsOverflow : base.canReadIndex = true ∧ (State.regs { base with index := 0xFFFE } [(0, 1)]).index.toNat + 1 = 0xFFFF ∧
    (State.regs { base with index := 0xFFFF } [(0, 1)]).index.toNat + 1 = 0x10000 ∧
    ({ base with index := 0xF0E1 } : State).index.toNat + (15 * 0x100 + 0x1E) = 0xFFFF ∧
    ({ base with cfg := { cfg with addIndexOperand := .vx } } : State).canReadV 0 = true := by decide

theorem witness_FontAddressOfADigit : base.canReadV 2 = true ∧ ((State.regs base [(2, 0x0F)]).getV 2).toNat ≤ 0xF ∧ 0xF < ((State.regs base [(2, 0x10)]).getV 2).toNat := by decide

theorem witness_BcdStoresThreeDigits : base.canReadV 0 = true ∧ base.canReadIndex = true ∧ Memory.wf base.cfg base.mem ∧ ({ base with index := 0xFFD } : State).index.toNat + 2 ≤ 0xFFF ∧
    0xFFF < ({ base with index := 0xFFE } : State).index.toNat + 2 := by decide

theorem witness_DumpStoresTheRegisters : base.canReadIndex = true ∧ Memory.wf base.cfg base.mem ∧ (∀ r : RegIdx, r ≤ 15 → base.canReadV r = true) ∧
    ({ base with index := 0xFF0 } : State).index.toNat + 15 ≤ 0xFFF ∧ 0xFFF < ({ base with index := 0xFF1 } : State).index.toNat + 15 := by decide

theorem witness_LoadReadsTheRegisters : base.canReadIndex = true ∧ ({ base with index := 0xFFF } : State).index.toNat + 0 ≤ 0xFFF ∧
    0xFFF < ({ base with index := 0x1000 } : State).index.toNat + 0 := by decide

/-- `N = 0` needs no readable `I`, and any other `N` has one. -/
theorem witness_DrawXorsTheClippedSprite : ((0 : Nibble) ≠ 0 → fresh.canReadIndex = true) ∧ ((15 : Nibble) ≠ 0 → base.canReadIndex = true) ∧
    (fresh.setV 0 1).canReadV 0 = true := by decide

theorem witness_DrawingTwiceRestoresTheBuffer : (0 : RegIdx) ≠ VF ∧ (1 : RegIdx) ≠ VF ∧ base.canReadV 0 = true ∧ base.canReadV 1 = true ∧
    ((1 : Nibble) ≠ 0 → base.canReadIndex = true) := by decide

theorem witness_KeySkipsReadOneLatch : base.canReadV 1 = true ∧ ((State.regs base [(1, 15)]).getV 1).toNat = (15 : Fin 16).val ∧
    0xF < ((State.regs base [(1, 16)]).getV 1).toNat := by decide

theorem witness_KeyWaitResolvesOrWaits : (keyPressed 0 base).keys[(0 : Fin 16)] = true ∧ (∀ j : Fin 16, j < 0 → (keyPressed 0 base).keys[j] = false) ∧
    (∀ k : Fin 16, base.keys[k] = false) := by decide

theorem witness_TimerInstructionsMoveTheCounters : base.canReadV 0 = true ∧ (State.regs base [(0, 5)]).getV 0 ≠ 0 ∧ base.getV 0 = 0 := by decide

theorem witness_FrameOfControlTransfer : exec (.call 0x350) base = .next ((base.push 0x200).setPc 0x350) ∧
    exec (.jp 0x350) base = .next (base.setPc 0x350) := ⟨rfl, rfl⟩

theorem witness_FrameOfLoadsAndArithmetic : exec (.ldImm 0 5) base = .next (base.setV 0 5) ∧
    exec (.addImm 0 5) base = .next (base.setV 0 5) ∧ exec (.addReg 0 1) base = .next ((base.setV 0 0).setV VF 0) ∧
    exec (.rnd 0 0x0F) { base with randomInputs := [0xA7] } = .next (base.setV 0 7) := ⟨rfl, rfl, rfl, rfl⟩

theorem witness_FrameOfIndexAndMemory : Memory.wf base.cfg base.mem ∧ exec (.ldI 0x300) base = .next (base.setIndex 0x300) ∧
    exec (.ldF 0) base = .next (base.setIndex 0x050) ∧ exec (.addI 0) base = .next ((base.setIndex 0x1E).setV VF 0) ∧
    exec (.ldB 0) (base.setIndex 0x400) = .next (base.setIndex 0x400) ∧
    exec (.dump 0) (base.setIndex 0x400) = .next (base.setIndex 0x401) ∧
    exec (.load 0) (base.setIndex 0x400) = .next ((base.setV 0 0).setIndex 0x401) :=
  ⟨by decide, rfl, rfl, rfl, rfl, rfl, rfl⟩

theorem witness_FrameOfDisplayKeysAndTimers : exec .cls base = .next { base with disp := Display.blank, dirty := true } ∧
    exec (.drw 0 0 0) base = .next (({ base with dirty := true } : State).setV VF 0) ∧
    exec (.skp 0) base = .next base ∧ exec (.sknp 0) base = .next (base.setPc 0x202) ∧ exec (.ldVxDt 0) base = .next (base.setV 0 0) ∧
    exec (.ldVxK 0) base = .next { base with execState := .awaitingKey 0 } ∧ exec (.ldDtVx 0) base = .next base ∧
    exec (.ldStVx 0) base = .next base := ⟨rfl, rfl, rfl, rfl, rfl, rfl, rfl, rfl⟩

end Sys2Proof.Tests
end

section
/-! The general registers (10_state.md R20). -/

namespace Sys2Proof.Machine

/-- Settles O7: a register write is a write to one element of the file, and the fields are the quotients that name its place. -/
theorem registerReadsAsLastWritten : Obligations.RegisterReadsAsLastWritten :=
  ⟨State.getV_setV, fun w => ⟨val_fieldX w, val_fieldY w⟩⟩

end Sys2Proof.Machine
end

section
/-! What reads and what writes the key latches (10_state.md R31; 60_exceptions.md R232, R236). `State.withKeys` replaces the latches;
each operation that reads no latch commutes with it, so every other instruction does too, and with it the step. -/

namespace Sys2Proof.Machine

/-! ### Other latches in the same state -/

/-- The state with its key latches replaced. -/
def State.withKeys (s : State) (ks : Vector Bool 16) : State := { s with keys := ks }

/-- What a meaning answers, with the latches of its next state replaced. -/
def Result.withKeys (r : Result) (ks : Vector Bool 16) : Result :=
  match r with
  | .next t => .next (t.withKeys ks)
  | .fault f => .fault f
  | .refused q => .refused q

section
variable (s : State) (ks : Vector Bool 16)

@[simp] theorem State.withKeys_keys : (s.withKeys ks).keys = ks := rfl
@[simp] theorem State.withKeys_self : s.withKeys s.keys = s := rfl
@[simp] theorem Result.withKeys_next : Result.withKeys (.next s) ks = .next (s.withKeys ks) := rfl

/-! ### Reads that see no latch -/

@[simp] theorem State.withKeys_getV : (s.withKeys ks).getV = s.getV := rfl
@[simp] theorem State.withKeys_pc : (s.withKeys ks).pc = s.pc := rfl
@[simp] theorem State.withKeys_top : (s.withKeys ks).top = s.top := rfl
@[simp] theorem State.withKeys_disp : (s.withKeys ks).disp = s.disp := rfl
@[simp] theorem State.withKeys_cfg : (s.withKeys ks).cfg = s.cfg := rfl
@[simp] theorem State.withKeys_nextDraw8 : (s.withKeys ks).nextDraw8 = s.nextDraw8 := rfl
@[simp] theorem State.withKeys_nextDraw16 : (s.withKeys ks).nextDraw16 = s.nextDraw16 := rfl
@[simp] theorem State.withKeys_blitRows : (s.withKeys ks).blitRows = s.blitRows := rfl
theorem State.withKeys_pcBeyondMemory : (s.withKeys ks).pcBeyondMemory = s.pcBeyondMemory := rfl
theorem State.withKeys_pcMisaligned : (s.withKeys ks).pcMisaligned = s.pcMisaligned := rfl

/-! ### Updates and checked reads commute with `withKeys` -/

@[simp] theorem State.setV_withKeys (r : RegIdx) (b : Byte) : (s.setV r b).withKeys ks = (s.withKeys ks).setV r b := rfl
@[simp] theorem State.setIndex_withKeys (w : Word) : (s.setIndex w).withKeys ks = (s.withKeys ks).setIndex w := rfl
@[simp] theorem State.setPc_withKeys (w : Word) : (s.setPc w).withKeys ks = (s.withKeys ks).setPc w := rfl
@[simp] theorem State.raise_withKeys (k : FaultKind) : (s.raise k).withKeys ks = (s.withKeys ks).raise k := rfl
@[simp] theorem State.afterDraw16_withKeys : s.afterDraw16.withKeys ks = (s.withKeys ks).afterDraw16 := rfl
@[simp] theorem State.writeAlu_withKeys (x : RegIdx) (r : AluResult) :
    (s.writeAlu x r).withKeys ks = (s.withKeys ks).writeAlu x r := rfl
@[simp] theorem State.finishDraw_withKeys (b : Blit) : (s.finishDraw b).withKeys ks = (s.withKeys ks).finishDraw b := rfl
@[simp] theorem State.advanceIndex_withKeys (i : Word) (x : RegIdx) :
    (s.advanceIndex i x).withKeys ks = (s.withKeys ks).advanceIndex i x := rfl

@[simp] theorem State.skipIf_withKeys (b : Bool) : (s.skipIf b).withKeys ks = (s.withKeys ks).skipIf b := by
  cases b <;> rfl

@[simp] theorem State.afterDraw8_withKeys : s.afterDraw8.withKeys ks = (s.withKeys ks).afterDraw8 := by
  obtain ⟨⟩ := s
  rename_i inputs _
  cases inputs <;> rfl

@[simp] theorem State.writeBytes_withKeys (a : Nat) (bs : List Byte) :
    (s.writeBytes a bs).withKeys ks = (s.withKeys ks).writeBytes a bs := by
  induction bs generalizing s a with
  | nil => rfl
  | cons b rest ih => exact ih (s.writeByte a b) (a + 1)

@[simp] theorem State.loadRegs_withKeys (i : Word) (rs : List RegIdx) :
    (s.loadRegs i rs).withKeys ks = (s.withKeys ks).loadRegs i rs := by
  induction rs generalizing s with
  | nil => rfl
  | cons r rest ih => exact ih (s.setV r (s.readByte (dataAddr i r.val)))

@[simp] theorem State.withV_withKeys (r : RegIdx) (go : Byte → State) :
    (s.withV r go).withKeys ks = (s.withKeys ks).withV r fun b => (go b).withKeys ks :=
  apply_ite (State.withKeys · ks) _ _ _

@[simp] theorem State.withIndex_withKeys (go : Word → State) :
    (s.withIndex go).withKeys ks = (s.withKeys ks).withIndex fun i => (go i).withKeys ks :=
  apply_ite (State.withKeys · ks) _ _ _

@[simp] theorem State.inMemory_withKeys (i : Word) (k : Nat) (go : State) :
    (s.inMemory i k go).withKeys ks = (s.withKeys ks).inMemory i k (go.withKeys ks) :=
  apply_ite (State.withKeys · ks) _ _ _

@[simp] theorem State.withAllV_withKeys (rs : List RegIdx) (go : State) :
    (s.withAllV rs go).withKeys ks = (s.withKeys ks).withAllV rs (go.withKeys ks) := by
  induction rs with
  | nil => rfl
  | cons r rest ih => simp [State.withAllV, ih]

@[simp] theorem State.withIndexAddend_withKeys (x : RegIdx) (go : Word → State) :
    (s.withIndexAddend x go).withKeys ks = (s.withKeys ks).withIndexAddend x fun w => (go w).withKeys ks := by
  unfold State.withIndexAddend
  rw [State.withKeys_cfg]
  cases s.cfg.addIndexOperand <;> simp

theorem State.binaryNoFlag_withKeys (x y : RegIdx) (f : Byte → Byte → Byte) :
    (s.binaryNoFlag x y f).withKeys ks = (s.withKeys ks).binaryNoFlag x y f := by simp [State.binaryNoFlag]

theorem State.binaryWithFlag_withKeys (x y : RegIdx) (f : Byte → Byte → AluResult) :
    (s.binaryWithFlag x y f).withKeys ks = (s.withKeys ks).binaryWithFlag x y f := by simp [State.binaryWithFlag]

/-! ### The tick -/

theorem State.tickDelay_withKeys : s.tickDelay.withKeys ks = (s.withKeys ks).tickDelay :=
  apply_ite (State.withKeys · ks) _ _ _

theorem State.tickSound_withKeys : s.tickSound.withKeys ks = (s.withKeys ks).tickSound := by
  unfold State.tickSound
  rw [apply_ite (State.withKeys · ks), apply_ite (State.withKeys · ks)]
  rfl

theorem timerTick_withKeys : (timerTick s).withKeys ks = timerTick (s.withKeys ks) := by
  unfold timerTick
  rw [apply_ite (State.withKeys · ks), State.tickSound_withKeys, State.tickDelay_withKeys]
  rfl

theorem finishCycle_withKeys : (finishCycle s).withKeys ks = finishCycle (s.withKeys ks) := by
  unfold finishCycle
  rw [apply_ite (State.withKeys · ks), timerTick_withKeys]
  rfl

end

/-! ### Instructions -/

/-- The instructions that read a key latch: EX9E, EXA1 and FX0A (10_state.md R31). -/
def readsKeys : Instr → Bool
  | .skp _ => true
  | .sknp _ => true
  | .ldVxK _ => true
  | _ => false

theorem readsKeys_eq_false {i : Instr} (skp : ∀ x, i ≠ .skp x) (sknp : ∀ x, i ≠ .sknp x) (ldVxK : ∀ x, i ≠ .ldVxK x) :
    readsKeys i = false := by
  cases i with
  | skp x => exact absurd rfl (skp x)
  | sknp x => exact absurd rfl (sknp x)
  | ldVxK x => exact absurd rfl (ldVxK x)
  | _ => rfl

/-- An instruction that reads no latch answers the same state whatever the latches are, with those latches in it. -/
theorem exec_withKeys {i : Instr} (hi : readsKeys i = false) (s : State) (ks : Vector Bool 16) :
    exec i (s.withKeys ks) = Result.withKeys (exec i s) ks := by
  cases i with
  | skp | sknp | ldVxK => cases hi
  | cls | jp | ldImm | ldI | ldVxDt => rfl
  | ret =>
    simp only [exec, execRet, State.withKeys_top, Result.withKeys_next]
    cases s.top <;> rfl
  | seImm | sneImm | seReg | sneReg | jpV0 =>
    simp [exec, execSeImm, execSneImm, execSeReg, execSneReg, execJpV0]
  | ldReg | shr | shl => simp [exec, execLdReg, execShr, execShl]
  | orReg | andReg | xorReg => exact congrArg _ (s.binaryNoFlag_withKeys ks _ _ _).symm
  | addReg | subReg | subnReg => exact congrArg _ (s.binaryWithFlag_withKeys ks _ _ _).symm
  | rnd => simp [exec, execRnd]
  | ldB | dump | load => simp [exec, execLdB, execDump, execLoad]
  | addI | ldF | drw => simp [exec, execAddI, execLdF, execDrw, apply_ite (State.withKeys · ks)]
  | call | addImm | ldDtVx | ldStVx =>
    simp only [exec, execCall, execAddImm, execLdDtVx, execLdStVx, Result.withKeys_next, State.withV_withKeys,
      apply_ite (State.withKeys · ks)]
    rfl

/-! ### What leaves the latches as they are -/

theorem State.withV_keys {s : State} {go : Byte → State} (h : ∀ b, (go b).keys = s.keys) (r : RegIdx) :
    (s.withV r go).keys = s.keys := by
  obtain ⟨-, e⟩ | ⟨-, e⟩ := s.withV_cases r go
  · rw [e, h]
  · rw [e, State.raise_keys]

theorem State.withKey_keys {s : State} {go : Bool → State} (h : ∀ b, (go b).keys = s.keys) (k : Byte) :
    (s.withKey k go).keys = s.keys := by
  obtain ⟨-, e⟩ | ⟨-, e⟩ := s.withKey_cases k go
  · rw [e, h]
  · rw [e, State.raise_keys]

@[simp] theorem State.skipIf_keys (s : State) (b : Bool) : (s.skipIf b).keys = s.keys := by
  rw [State.skipIf_eq]

@[simp] theorem finishCycle_keys (s : State) : (finishCycle s).keys = s.keys := by
  unfold finishCycle
  split
  · rfl
  · exact timerTick_keys s

theorem awaitKeyCycle_keys (r : RegIdx) (s : State) : (awaitKeyCycle r s).keys = s.keys := by
  unfold awaitKeyCycle
  split <;> simp

/-- No instruction writes a latch. One that reads none keeps even the latches it was given: put back the state's own. -/
theorem exec_keys {i : Instr} {s t : State} (h : exec i s = .next t) : t.keys = s.keys := by
  cases hi : readsKeys i with
  | false =>
    have e := exec_withKeys hi s s.keys
    rw [State.withKeys_self, h, Result.withKeys_next] at e
    rw [Host.Outcome.next.inj e, State.withKeys_keys]
  | true =>
    cases i with
    | skp x => cases h; exact State.withV_keys (fun _ => State.withKey_keys (by simp) _) x
    | sknp x => cases h; exact State.withV_keys (fun _ => State.withKey_keys (by simp) _) x
    | ldVxK x =>
      cases h
      cases s.lowestPressed <;> rfl
    | _ => cases hi

theorem step_keys {s t : State} (h : step s = .next t) : t.keys = s.keys := by
  obtain ⟨-, rfl⟩ | ⟨r, -, rfl⟩ | ⟨-, -, rfl⟩ | ⟨-, -, -, rfl⟩ | ⟨-, -, -, rfl⟩ | ⟨-, -, -, -, rfl⟩ | ⟨i, u, -, hu, rfl⟩ :=
    step_cases h
  · rfl
  · exact awaitKeyCycle_keys r s
  · rfl
  · rfl
  · rfl
  · rfl
  · rw [finishCycle_keys, exec_keys hu, State.fetched_keys]

/-! ### Steps that read no latch -/

theorem executeWord_withKeys {w : Word} (hw : ∀ i, decodeWord w = .ok i → readsKeys i = false) (s : State)
    (ks : Vector Bool 16) : executeWord w (s.withKeys ks) = Result.withKeys (executeWord w s) ks := by
  unfold executeWord
  cases hd : decodeWord w with
  | error e => rfl
  | ok i =>
    obtain ⟨t, ht⟩ := exec_total i s
    simp only [exec_withKeys (hw i hd), ht, Result.withKeys_next, finishCycle_withKeys]

theorem runFetched_withKeys {w : Word} {s : State}
    (hw : s.pc.toNat < memSize → ∀ i, decodeWord w = .ok i → readsKeys i = false) (ks : Vector Bool 16) :
    runFetched w (s.withKeys ks) = Result.withKeys (runFetched w s) ks := by
  unfold runFetched
  rw [State.withKeys_pc]
  by_cases hp : memSize ≤ s.pc.toNat
  · rw [if_pos hp, if_pos hp]; rfl
  · rw [if_neg hp, if_neg hp]
    exact executeWord_withKeys (hw (Nat.lt_of_not_le hp)) s ks

/-- A running cycle reads the latches only by executing an instruction that does. -/
theorem runCycle_withKeys {s : State} (hrun : s.execState = .running) (hx : ∀ i, Executes s i → readsKeys i = false)
    (ks : Vector Bool 16) : runCycle (s.withKeys ks) = Result.withKeys (runCycle s) ks := by
  unfold runCycle
  rw [State.withKeys_pcBeyondMemory, State.withKeys_pcMisaligned]
  cases hb : s.pcBeyondMemory with
  | true => rfl
  | false =>
    cases hm : s.pcMisaligned with
    | true => rfl
    | false =>
      have hfit : s.pc.toNat ≤ 0xFFE := by simpa [State.pcBeyondMemory, memSize] using hb
      refine runFetched_withKeys (s := s.fetched) (fun hp i hd => hx i ⟨hrun, ?_, hm, hd⟩) ks
      rwa [toNat_fetched_pc hfit] at hp

/-- A cycle that awaits no key and executes no instruction that reads a latch is the same whatever the latches are. -/
theorem step_withKeys {s : State} (hx : ∀ i, Executes s i → readsKeys i = false)
    (hwait : ∀ r, s.execState ≠ .awaitingKey r) (ks : Vector Bool 16) :
    step (s.withKeys ks) = Result.withKeys (step s) ks := by
  cases h : s.execState with
  | running =>
    rw [step_eq_runCycle h, step_eq_runCycle (s := s.withKeys ks) h]
    exact runCycle_withKeys h hx ks
  | halted => rw [step_of_halted h, step_of_halted (s := s.withKeys ks) h]; rfl
  | awaitingKey r => exact absurd h (hwait r)
  | faulted kind snap => rw [step_of_faulted h, step_of_faulted (s := s.withKeys ks) h]; rfl

/-! ### The host's writes -/

theorem State.keyDown_of_lt (s : State) {j : Nat} (hj : j < 16) : s.keyDown j = s.keys[j] := s.keyDown_fin ⟨j, hj⟩

/-- There is no latch above 15 (10_state.md R31). -/
theorem State.keyDown_of_le (s : State) {j : Nat} (hj : 16 ≤ j) : s.keyDown j = false := by
  simp [State.keyDown, List.getD_eq_getElem?_getD, hj]

theorem State.setKey_keys (s : State) (k : Fin 16) (down : Bool) :
    (s.setKey k.val down).keys = s.keys.set k.val down := by
  simp [State.setKey]

/-- A latch reads as the last value written to it, and a write touches no other (60_exceptions.md R236). -/
theorem State.keyDown_setKey (s : State) (k : Fin 16) (down : Bool) (j : Nat) :
    (s.setKey k.val down).keyDown j = if j = k.val then down else s.keyDown j := by
  by_cases hj : j < 16
  · simp only [State.keyDown_of_lt _ hj, State.setKey_keys, Vector.getElem_set, eq_comm]
  · have hjk : j ≠ k.val := by omega
    rw [if_neg hjk, State.keyDown_of_le _ (by omega), State.keyDown_of_le _ (by omega)]

/-- Settles O29: every operation but the latch reads commutes with replacing the latches. -/
theorem onlyTheHostWritesTheKeyLatches : Obligations.OnlyTheHostWritesTheKeyLatches := by
  refine ⟨fun s t => step_keys, fun i s t ks skp sknp ldVxK h => ?_, fun s t ks skp sknp ldVxK hwait h => ?_,
    fun s k j => ?_, fun s k j => ?_⟩
  · exact (exec_withKeys (readsKeys_eq_false skp sknp ldVxK) s ks).trans (by rw [h]; rfl)
  · have hx : ∀ i, Executes s i → readsKeys i = false := fun i hi =>
      readsKeys_eq_false (fun x e => skp x (e ▸ hi)) (fun x e => sknp x (e ▸ hi)) (fun x e => ldVxK x (e ▸ hi))
    exact (step_withKeys hx hwait ks).trans (by rw [h]; rfl)
  · rw [keyPressed, State.keyDown_setKey]
    by_cases hj : j = k.val <;> simp [hj]
  · rw [keyReleased, State.keyDown_setKey]
    by_cases hj : j = k.val <;> simp [hj]

end Sys2Proof.Machine
end

section
/-! Reads after memory writes and after the program load (20_memory.md R55, R64). -/

namespace Sys2Proof.Machine

/-- Settles O8: the read-after-write law of canonical memory. -/
theorem memoryReadsAsLastWritten : Obligations.MemoryReadsAsLastWritten :=
  fun _ _ c b hm ha => State.readByte_writeByte hm ha c b

theorem loadProgram_of_fits {bytes : List Byte} (h : wellFormedProgram bytes) (s : State) :
    loadProgram bytes s = .ok (s.writeBytes progBase bytes) := if_pos h

theorem loadProgram_of_tooLong {bytes : List Byte} (h : ¬ wellFormedProgram bytes) (s : State) :
    loadProgram bytes s = .error (.streamTooLong bytes.length) := if_neg h

/-- Settles O9: an accepted stream is one run of byte writes from `progBase`, and `State.readByte_writeBytes` reads it back. -/
theorem programLoadFillsFromTheProgramBase : Obligations.ProgramLoadFillsFromTheProgramBase := by
  refine fun s bytes hm => ⟨fun hlen => ?_, fun hlen => loadProgram_of_tooLong (by omega) s⟩
  have hfit : 0x200 + bytes.length ≤ memSize := by change _ ≤ 0x1000; omega
  have read := State.readByte_writeBytes hm hfit
  refine ⟨_, loadProgram_of_fits hlen s, fun k hk => ?_, fun a ha => ?_, State.writeBytes_only_mem ..⟩
  · exact (read _).trans (by simp [hk])
  · exact (read a).trans (dif_neg (by omega))

end Sys2Proof.Machine
end

section
/-! What a call of `cycle()` returns (40_cycle_and_dispatch.md R111, R115). -/

namespace Sys2Proof.Machine

/-- A call whose step answers a state returns the result that goes with that state. -/
theorem callResult_of_next {s t : State} (h : step s = .next t) : callResult s = some (cycleResult t) := by
  unfold callResult; rw [h]

theorem cycleResult_of_halted {s : State} (h : s.execState = .halted) : cycleResult s = .halted := by
  unfold cycleResult; rw [h]

/-- Settles O14: the step of a halted core answers the state itself, so the call's result is that of a halted state. -/
theorem haltedCycleChangesNothing : Obligations.HaltedCycleChangesNothing := by
  intro s h
  have hstep : step s = .next s := step_of_halted h
  have hcall : callResult s = some .halted := by rw [callResult_of_next hstep, cycleResult_of_halted h]
  exact ⟨hstep, hcall⟩

end Sys2Proof.Machine
end

section
/-! The jump (41_control_flow.md R121). -/

namespace Sys2Proof.Machine

/-- Zero extension keeps the address (30_encoding.md R74). -/
@[simp] theorem toNat_zextAddr (nnn : Addr12) : (zextAddr nnn).toNat = nnn.toNat :=
  BitVec.toNat_setWidth_of_le (by decide)

/-- Group 1 is the jump, its target the low twelve bits (30_encoding.md R75). -/
theorem decodeWord_of_group1 {w : Word} (h : fieldG w = 0x1#4) : decodeWord w = .ok (.jp (fieldNNN w)) := by
  simp only [decodeWord, h]

theorem decodeWord_wordGNNN_one (nnn : Addr12) : decodeWord (wordGNNN 0x1 nnn) = .ok (.jp nnn) := by
  rw [decodeWord_of_group1 (fieldG_wordGNNN 0x1 nnn), fieldNNN_wordGNNN]

theorem exec_jp (nnn : Addr12) (s : State) : exec (.jp nnn) s = .next (s.setPc (zextAddr nnn)) := rfl

/-- Settles O35: `1NNN` is the encoder's form of the jump, and the jump is one `setPc`. -/
theorem jumpReplacesThePc : Obligations.JumpReplacesThePc :=
  fun nnn s => ⟨decodeWord_wordGNNN_one nnn, s.setPc (zextAddr nnn), exec_jp nnn s, toNat_zextAddr nnn, rfl⟩

end Sys2Proof.Machine
end

section
/-! The immediate loads (42_load_and_alu.md R140; 43_index_and_memory.md R170). -/

namespace Sys2Proof.Machine

/-- Group 6 is the immediate load, its operands the fields `X` and `NN` (30_encoding.md R75). -/
theorem decodeWord_of_group6 {w : Word} (h : fieldG w = 0x6#4) : decodeWord w = .ok (.ldImm (fieldX w) (fieldNN w)) := by
  simp only [decodeWord, h]

/-- Group A is the load of `I`, its operand the low twelve bits (30_encoding.md R75). -/
theorem decodeWord_of_groupA {w : Word} (h : fieldG w = 0xA#4) : decodeWord w = .ok (.ldI (fieldNNN w)) := by
  simp only [decodeWord, h]

theorem decodeWord_wordGXNN_six (x : RegIdx) (nn : Byte) : decodeWord (wordGXNN 0x6 x nn) = .ok (.ldImm x nn) := by
  rw [decodeWord_of_group6 (fieldG_wordGXNN 0x6 x nn), fieldX_wordGXNN, fieldNN_wordGXNN]

theorem decodeWord_wordGNNN_ten (nnn : Addr12) : decodeWord (wordGNNN 0xA nnn) = .ok (.ldI nnn) := by
  rw [decodeWord_of_groupA (fieldG_wordGNNN 0xA nnn), fieldNNN_wordGNNN]

theorem exec_ldImm (x : RegIdx) (nn : Byte) (s : State) : exec (.ldImm x nn) s = .next (s.setV x nn) := rfl

theorem exec_ldI (nnn : Addr12) (s : State) : exec (.ldI nnn) s = .next (s.setIndex (zextAddr nnn)) := rfl

/-- Settles O39: `6XNN` and `ANNN` are the encoder's forms of the two loads; one is a single `setV`, the other a single `setIndex`. -/
theorem immediateLoadsWriteTheirRegister : Obligations.ImmediateLoadsWriteTheirRegister := by
  refine fun s x nn nnn => ⟨⟨decodeWord_wordGXNN_six x nn, s.setV x nn, exec_ldImm x nn s, ?_, ?_, rfl⟩,
    decodeWord_wordGNNN_ten nnn, s.setIndex (zextAddr nnn), exec_ldI nnn s, ?_, rfl⟩
  · exact s.getV_setV_self x nn
  · exact fun r hr => s.getV_setV_ne nn hr
  · exact toNat_zextAddr nnn

end Sys2Proof.Machine
end

section
/-! The lowest pressed key (45_timers_and_keys.md R207): the search of the latches in ascending order stops at the smallest one set. -/

namespace Sys2Proof.Machine

/-- The search passes over no set latch: the list of keys ascends, and every key before the one found fails the test. -/
theorem State.lowestPressed_le {s : State} {k j : Fin 16} (hk : s.lowestPressed = some k) (hj : s.keys[j] = true) :
    k ≤ j := by
  obtain ⟨-, i, hi, hik, hbefore⟩ := List.find?_eq_some_iff_getElem.mp hk
  have hval : i = k.val := by simpa using congrArg Fin.val hik
  by_contra hlt
  have hji : j.val < i := by omega
  have hunset : s.keys[j] = false := by simpa using hbefore j.val hji
  exact Bool.false_ne_true (hunset.symm.trans hj)

/-- A set latch is found, or a smaller one is. -/
theorem State.exists_lowestPressed {s : State} {k : Fin 16} (hk : s.keys[k] = true) : ∃ m, s.lowestPressed = some m := by
  refine Option.ne_none_iff_exists'.mp fun hnone => ?_
  exact Bool.false_ne_true ((s.lowestPressed_eq_none.mp hnone k).symm.trans hk)

theorem State.lowestPressed_eq_some (s : State) (k : Fin 16) :
    s.lowestPressed = some k ↔ s.keys[k] = true ∧ ∀ j : Fin 16, s.keys[j] = true → k ≤ j := by
  constructor
  · exact fun h => ⟨State.keys_of_lowestPressed h, fun _ hj => State.lowestPressed_le h hj⟩
  · rintro ⟨hk, hmin⟩
    obtain ⟨m, hm⟩ := State.exists_lowestPressed hk
    have hkm : k = m := le_antisymm (hmin m (State.keys_of_lowestPressed hm)) (State.lowestPressed_le hm hk)
    rw [hm, hkm]

/-- Settles O17: the key found is the least set one, since the search is sound, passes over no set latch, and fails only when none is set. -/
theorem lowestPressedIsTheSmallestLatch : Obligations.LowestPressedIsTheSmallestLatch :=
  fun s => ⟨s.lowestPressed_eq_some, s.lowestPressed_eq_none⟩

end Sys2Proof.Machine
end

section
/-! The decoder and the encoder (30_encoding.md sections 1 and 2; 40_cycle_and_dispatch.md R104 to R109). -/

namespace Sys2Proof

/-! ### Decoding an encoded instruction -/

/-- Settles O1: the fields of an encoded word are the ones it was built from, and the selectors pick the same instruction again. -/
theorem decodeOfEncodeIsTheInstruction : Obligations.DecodeOfEncodeIsTheInstruction := by
  intro i
  cases i with
  | cls | ret => rfl
  | jp | call | ldI | jpV0 =>
    simp only [encode, decodeWord, fieldG_wordGNNN, fieldNNN_wordGNNN]
    rfl
  | seImm | sneImm | ldImm | addImm | rnd =>
    simp only [encode, decodeWord, fieldG_wordGXNN, fieldX_wordGXNN, fieldNN_wordGXNN]
    rfl
  | seReg | sneReg | drw =>
    simp only [encode, decodeWord, fieldG_wordGXYN, fieldX_wordGXYN, fieldY_wordGXYN, fieldN_wordGXYN]
    rfl
  | ldReg | orReg | andReg | xorReg | addReg | subReg | shr | subnReg | shl =>
    simp only [encode, decodeWord, decodeGroup8, fieldG_wordGXYN, fieldX_wordGXYN, fieldY_wordGXYN, fieldN_wordGXYN]
    rfl
  | skp | sknp =>
    simp only [encode, decodeWord, decodeGroupE, fieldG_wordGXNN, fieldX_wordGXNN, fieldNN_wordGXNN]
    rfl
  | ldVxDt | ldVxK | ldDtVx | ldStVx | addI | ldF | ldB | dump | load =>
    simp only [encode, decodeWord, decodeGroupF, fieldG_wordGXNN, fieldX_wordGXNN, fieldNN_wordGXNN]
    rfl

theorem decodeWord_encode (i : Instr) : decodeWord (encode i) = .ok i := decodeOfEncodeIsTheInstruction i

/-! ### Dispatch by the primary group -/

/-- Group 0 is selected by the low byte alone (40_cycle_and_dispatch.md R105). -/
theorem decodeGroup0_eq (w : Word) : decodeGroup0 w =
    if fieldNN w = 0xE0#8 then .ok .cls else if fieldNN w = 0xEE#8 then .ok .ret else .error (.invalidOpcode w) := by
  unfold decodeGroup0
  split
  · rename_i h; rw [h]; rfl
  · rename_i h; rw [h]; rfl
  · rename_i cls ret; rw [if_neg cls, if_neg ret]

/-- Settles O4: the dispatcher looks at the primary group first, and only groups 0, 8, E and F look further. -/
theorem primaryDispatch : Obligations.PrimaryDispatch := by
  intro w
  and_intros <;> intro h <;> simp only [decodeWord, h, decodeGroup0_eq]

/-- Settles O5: each word is evaluated. -/
theorem writtenOutWordsDecode : Obligations.WrittenOutWordsDecode := by
  unfold Obligations.WrittenOutWordsDecode
  decide

/-! ### A word from its fields, and with the bits its decoding ignores cleared -/

theorem wordGNNN_fields (w : Word) : wordGNNN (fieldG w) (fieldNNN w) = w := by
  apply BitVec.eq_of_toNat_eq
  rw [toNat_wordGNNN, toNat_fieldG, toNat_fieldNNN]; omega

theorem wordGXNN_fields (w : Word) : wordGXNN (fieldG w) (fieldX w) (fieldNN w) = w := by
  apply BitVec.eq_of_toNat_eq
  rw [toNat_wordGXNN, toNat_fieldG, val_fieldX, toNat_fieldNN]; omega

theorem wordGXYN_fields (w : Word) : wordGXYN (fieldG w) (fieldX w) (fieldY w) (fieldN w) = w := by
  apply BitVec.eq_of_toNat_eq
  rw [toNat_wordGXYN, toNat_fieldG, val_fieldX, val_fieldY, toNat_fieldN]; omega

theorem nibble_and_ones (a : Nibble) : a &&& 0xF#4 = a := BitVec.and_allOnes

theorem byte_and_ones (a : Byte) : a &&& 0xFF#8 = a := BitVec.and_allOnes

theorem wordGXNN_and_mask (g : Nibble) (x : RegIdx) (nn : Byte) :
    wordGXNN g x nn &&& wordGXNN 0xF 0 0xFF = wordGXNN g 0 nn := by
  change ((g ++ regField x) ++ nn : BitVec (4 + 4 + 8)) &&& ((0xF#4 ++ 0x0#4) ++ 0xFF#8) = (g ++ 0x0#4) ++ nn
  rw [BitVec.and_append, BitVec.and_append, nibble_and_ones, BitVec.and_zero, byte_and_ones]

theorem wordGXYN_and_mask (g : Nibble) (x y : RegIdx) (n : Nibble) :
    wordGXYN g x y n &&& wordGXYN 0xF 0xF 0xF 0 = wordGXYN g x y 0 := by
  change (((g ++ regField x) ++ regField y) ++ n : BitVec (4 + 4 + 4 + 4)) &&& (((0xF#4 ++ 0xF#4) ++ 0xF#4) ++ 0x0#4) =
    ((g ++ regField x) ++ regField y) ++ 0x0#4
  rw [BitVec.and_append, BitVec.and_append, BitVec.and_append, nibble_and_ones, nibble_and_ones, nibble_and_ones,
    BitVec.and_zero]

section
variable {w : Word}

/-- Group 0 ignores `X` (30_encoding.md R76). -/
theorem and_not_ignoredBits_of_group0 (h : fieldG w = 0x0#4) :
    w &&& ~~~ignoredBits w = wordGXNN 0x0 0 (fieldNN w) := by
  have mask : ~~~ignoredBits w = wordGXNN 0xF 0 0xFF := by simp only [ignoredBits, h]; decide
  conv_lhs => rw [mask, ← wordGXNN_fields w, h, wordGXNN_and_mask]
  rfl

/-- Groups 5 and 9 ignore `N` (30_encoding.md R80). -/
theorem and_not_ignoredBits_of_compare (h : fieldG w = 0x5#4 ∨ fieldG w = 0x9#4) :
    w &&& ~~~ignoredBits w = wordGXYN (fieldG w) (fieldX w) (fieldY w) 0x0 := by
  have mask : ~~~ignoredBits w = wordGXYN 0xF 0xF 0xF 0 := by
    obtain h | h := h <;> simp only [ignoredBits, h] <;> decide
  conv_lhs => rw [mask, ← wordGXYN_fields w, wordGXYN_and_mask]

/-- Every other group ignores nothing (30_encoding.md R80). -/
theorem and_not_ignoredBits_of_others (h : fieldG w ∉ [0x0#4, 0x5#4, 0x9#4]) : w &&& ~~~ignoredBits w = w := by
  have none : ignoredBits w = 0x0000#16 := by
    unfold ignoredBits
    split <;> simp_all
  rw [none]
  exact BitVec.and_allOnes

/-! ### What a secondary selector leaves to be encoded -/

variable {i : Instr}

theorem encode_of_decodeGroup0 (h : decodeGroup0 w = .ok i) : encode i = wordGXNN 0x0 0 (fieldNN w) := by
  unfold decodeGroup0 at h
  split at h
  case h_3 => cases h
  all_goals rename_i hn; cases h; rw [hn]; rfl

theorem encode_of_decodeGroup8 (h : decodeGroup8 w = .ok i) :
    encode i = wordGXYN 0x8 (fieldX w) (fieldY w) (fieldN w) := by
  unfold decodeGroup8 at h
  split at h
  case h_10 => cases h
  all_goals rename_i hn; cases h; rw [hn]; rfl

theorem encode_of_decodeGroupE (h : decodeGroupE w = .ok i) : encode i = wordGXNN 0xE (fieldX w) (fieldNN w) := by
  unfold decodeGroupE at h
  split at h
  case h_3 => cases h
  all_goals rename_i hn; cases h; rw [hn]; rfl

theorem encode_of_decodeGroupF (h : decodeGroupF w = .ok i) : encode i = wordGXNN 0xF (fieldX w) (fieldNN w) := by
  unfold decodeGroupF at h
  split at h
  case h_10 => cases h
  all_goals rename_i hn; cases h; rw [hn]; rfl

end

/-- Settles O2: group by group, the instruction's word is built from the fields the decoder read, and the fields make up the word. -/
theorem encodeOfDecodeClearsIgnoredBits : Obligations.EncodeOfDecodeClearsIgnoredBits := by
  intro w i h
  have gnnn := wordGNNN_fields w
  have gxnn := wordGXNN_fields w
  have gxyn := wordGXYN_fields w
  unfold decodeWord at h
  split at h
  case h_1 hg => rw [and_not_ignoredBits_of_group0 hg, encode_of_decodeGroup0 h]
  case h_6 hg => cases h; rw [and_not_ignoredBits_of_compare (.inl hg), hg]; rfl
  case h_10 hg => cases h; rw [and_not_ignoredBits_of_compare (.inr hg), hg]; rfl
  case h_17 => cases h
  all_goals
    rename_i hg
    rw [and_not_ignoredBits_of_others (by rw [hg]; decide)]
    rw [hg] at gnnn gxnn gxyn
  case h_9 => exact (encode_of_decodeGroup8 h).trans gxyn
  case h_15 => exact (encode_of_decodeGroupE h).trans gxnn
  case h_16 => exact (encode_of_decodeGroupF h).trans gxnn
  all_goals cases h
  case h_2 | h_3 | h_11 | h_12 => exact gnnn
  case h_4 | h_5 | h_7 | h_8 | h_13 => exact gxnn
  case h_14 => exact gxyn

/-! ### The words that decode -/

/-- What a decoder answers for a word: an instruction if the word is valid, else that the word is invalid (30_encoding.md R81). -/
def AnswersAsListed (w : Word) (r : Except DecodeError Instr) : Prop :=
  (wellFormedWord w = false ∧ r = .error (.invalidOpcode w)) ∨ (wellFormedWord w = true ∧ ∃ i, r = .ok i)

section
variable {w : Word}

theorem group_eq_of_fieldG {g : Nibble} (h : fieldG w = g) : w.toNat / 4096 = g.toNat := by rw [← h, toNat_fieldG]

theorem wellFormedWord_of_group0 (h : fieldG w = 0x0#4) :
    wellFormedWord w = [0xE0#8, 0xEE#8].contains (fieldNN w) := by
  have values : ∀ b : Byte, [0xE0, 0xEE].contains b.toNat = [0xE0#8, 0xEE#8].contains b := by decide
  simp only [wellFormedWord, group_eq_of_fieldG h, ← toNat_fieldNN, ← values]
  rfl

theorem wellFormedWord_of_group8 (h : fieldG w = 0x8#4) : wellFormedWord w =
    [0x0#4, 0x1#4, 0x2#4, 0x3#4, 0x4#4, 0x5#4, 0x6#4, 0x7#4, 0xE#4].contains (fieldN w) := by
  have values : ∀ b : Nibble, (!([0x8, 0x9, 0xA, 0xB, 0xC, 0xD, 0xF].contains b.toNat)) =
    [0x0#4, 0x1#4, 0x2#4, 0x3#4, 0x4#4, 0x5#4, 0x6#4, 0x7#4, 0xE#4].contains b := by decide
  simp only [wellFormedWord, group_eq_of_fieldG h, ← toNat_fieldN, ← values]
  rfl

theorem wellFormedWord_of_groupE (h : fieldG w = 0xE#4) :
    wellFormedWord w = [0x9E#8, 0xA1#8].contains (fieldNN w) := by
  have values : ∀ b : Byte, [0x9E, 0xA1].contains b.toNat = [0x9E#8, 0xA1#8].contains b := by decide
  simp only [wellFormedWord, group_eq_of_fieldG h, ← toNat_fieldNN, ← values]
  rfl

theorem wellFormedWord_of_groupF (h : fieldG w = 0xF#4) : wellFormedWord w =
    [0x07#8, 0x0A#8, 0x15#8, 0x18#8, 0x1E#8, 0x29#8, 0x33#8, 0x55#8, 0x65#8].contains (fieldNN w) := by
  have values : ∀ b : Byte, [0x07, 0x0A, 0x15, 0x18, 0x1E, 0x29, 0x33, 0x55, 0x65].contains b.toNat =
    [0x07#8, 0x0A#8, 0x15#8, 0x18#8, 0x1E#8, 0x29#8, 0x33#8, 0x55#8, 0x65#8].contains b := by decide
  simp only [wellFormedWord, group_eq_of_fieldG h, ← toNat_fieldNN, ← values]
  rfl

/-- A group with no secondary selector is valid whole (30_encoding.md R80). -/
theorem wellFormedWord_of_others (h : fieldG w ∉ [0x0#4, 0x8#4, 0xE#4, 0xF#4]) : wellFormedWord w = true := by
  have values : ∀ g : Nibble, g ∉ [0x0#4, 0x8#4, 0xE#4, 0xF#4] → ∀ k ∈ [0, 8, 14, 15], g.toNat ≠ k := by decide
  exact Laws.EncodeWellFormed.unselected_group w (by rw [← toNat_fieldG]; exact values _ h)

theorem decodeGroup0_asListed (h : fieldG w = 0x0#4) : AnswersAsListed w (decodeGroup0 w) := by
  unfold AnswersAsListed decodeGroup0
  rw [wellFormedWord_of_group0 h]
  split
  case h_3 => exact .inl ⟨by simp_all, rfl⟩
  all_goals rename_i hn; rw [hn]; exact .inr ⟨rfl, _, rfl⟩

theorem decodeGroup8_asListed (h : fieldG w = 0x8#4) : AnswersAsListed w (decodeGroup8 w) := by
  unfold AnswersAsListed decodeGroup8
  rw [wellFormedWord_of_group8 h]
  split
  case h_10 => exact .inl ⟨by simp_all, rfl⟩
  all_goals rename_i hn; rw [hn]; exact .inr ⟨rfl, _, rfl⟩

theorem decodeGroupE_asListed (h : fieldG w = 0xE#4) : AnswersAsListed w (decodeGroupE w) := by
  unfold AnswersAsListed decodeGroupE
  rw [wellFormedWord_of_groupE h]
  split
  case h_3 => exact .inl ⟨by simp_all, rfl⟩
  all_goals rename_i hn; rw [hn]; exact .inr ⟨rfl, _, rfl⟩

theorem decodeGroupF_asListed (h : fieldG w = 0xF#4) : AnswersAsListed w (decodeGroupF w) := by
  unfold AnswersAsListed decodeGroupF
  rw [wellFormedWord_of_groupF h]
  split
  case h_10 => exact .inl ⟨by simp_all, rfl⟩
  all_goals rename_i hn; rw [hn]; exact .inr ⟨rfl, _, rfl⟩

end

/-- Settles O3: the sixteen groups are all there are, and each answers as the list of invalid words says. -/
theorem invalidWordsAreExactlyTheListedOnes : Obligations.InvalidWordsAreExactlyTheListedOnes := by
  intro w
  change AnswersAsListed w (decodeWord w)
  unfold decodeWord
  split
  case h_1 hg => exact decodeGroup0_asListed hg
  case h_9 hg => exact decodeGroup8_asListed hg
  case h_15 hg => exact decodeGroupE_asListed hg
  case h_16 hg => exact decodeGroupF_asListed hg
  case h_17 =>
    exfalso
    generalize fieldG w = g at *
    revert g
    decide
  all_goals
    rename_i hg
    exact .inr ⟨wellFormedWord_of_others (by rw [hg]; decide), _, rfl⟩

end Sys2Proof
end

section
/-! What an instruction does, said once: the fault it raises, if any (60_exceptions.md R221), and the state it leaves if it raises none. Every
check precedes every write (R222), so `exec` is the one or the other. -/

namespace Sys2Proof.Machine

/-! ### The checks as the faults they find -/

/-- The fault of the first unreadable register of a list (10_state.md R38). -/
def State.unreadable (s : State) (rs : List RegName) : Option FaultKind :=
  (rs.find? (fun q => !s.canRead q)).map .unwrittenRegister

/-- The fault of an access whose last byte is at `I + k` (43_index_and_memory.md R180). -/
def State.outOfRange (s : State) (k : Nat) : Option FaultKind :=
  if dataAddr s.index k > 0xFFF then some (.memoryOutOfRange s.index) else none

/-- The fault of a key skip (45_timers_and_keys.md R200, R201). -/
def State.badKey (s : State) (x : RegIdx) : Option FaultKind :=
  if (s.getV x).toNat > 0xF then some (.keyIndexOutOfRange (s.getV x)) else none

/-- What FX1E adds to `I` (43_index_and_memory.md R172). -/
def State.indexAddend (s : State) (x : RegIdx) : Word :=
  match s.cfg.addIndexOperand with
  | .imm12 => zextAddr (addIndexImmediate x)
  | .vx => zextByte (s.getV x)

/-- The exact sum of FX1E (43_index_and_memory.md R171). -/
def State.indexSum (s : State) (x : RegIdx) : Nat := s.index.toNat + (s.indexAddend x).toNat

/-- The fault of an instruction's own rule, once its registers are read (60_exceptions.md R221). -/
def State.ruleFault (s : State) : Instr → Option FaultKind
  | .ret => if s.stack = [] then some .stackUnderflow else none
  | .call _ => if stackCap ≤ s.stack.length then some .stackOverflow else none
  | .skp x => s.badKey x
  | .sknp x => s.badKey x
  | .addI x => if s.indexSum x > 0xFFFF then some (.indexOverflow (s.indexSum x)) else none
  | .ldB _ => s.outOfRange 2
  | .dump x => s.outOfRange x.val
  | .load x => s.outOfRange x.val
  | _ => none

/-- The fault an instruction raises, if any: that of the first register it cannot read, else that of its own rule.
FX55 checks its range once `I` is read and before it reads `V[0]` (log entry 12). -/
def State.faultOf (s : State) (i : Instr) : Option FaultKind :=
  match i with
  | .dump x => (s.unreadable [16]).or ((s.ruleFault i).or (s.unreadable ((regsUpTo x).map Fin.castSucc)))
  | _ => (s.unreadable (i.reads s.cfg)).or (s.ruleFault i)

/-- The state an instruction leaves when it raises no fault. -/
def State.completed (s : State) : Instr → State
  | .cls => { s with disp := Display.blank, dirty := true }
  | .ret => s.dropTop.setPc (s.top.getD 0)
  | .jp nnn => s.setPc (zextAddr nnn)
  | .call nnn => (s.push s.pc).setPc (zextAddr nnn)
  | .seImm x nn => { s with pc := if s.getV x = nn then s.pc + 2 else s.pc }
  | .sneImm x nn => { s with pc := if s.getV x = nn then s.pc else s.pc + 2 }
  | .seReg x y => { s with pc := if s.getV x = s.getV y then s.pc + 2 else s.pc }
  | .sneReg x y => { s with pc := if s.getV x = s.getV y then s.pc else s.pc + 2 }
  | .jpV0 nnn => s.setPc (zextAddr nnn + zextByte (s.getV 0))
  | .ldImm x nn => s.setV x nn
  | .addImm x nn =>
    if s.cfg.addImmWritesVF then s.writeAlu x (aluAdd (s.getV x) nn) else s.setV x (aluAdd (s.getV x) nn).value
  | .ldReg x y => s.setV x (s.getV y)
  | .orReg x y => s.setV x (s.getV x ||| s.getV y)
  | .andReg x y => s.setV x (s.getV x &&& s.getV y)
  | .xorReg x y => s.setV x (s.getV x ^^^ s.getV y)
  | .addReg x y => s.writeAlu x (aluAdd (s.getV x) (s.getV y))
  | .subReg x y => s.writeAlu x (aluSub (s.getV x) (s.getV y))
  | .shr x y => s.writeAlu x (aluShr (s.getV (shiftOperand s.cfg x y)))
  | .subnReg x y => s.writeAlu x (aluSub (s.getV y) (s.getV x))
  | .shl x y => s.writeAlu x (aluShl (s.getV (shiftOperand s.cfg x y)))
  | .rnd x nn => s.afterDraw8.setV x (s.nextDraw8 &&& nn)
  | .ldI nnn => s.setIndex (zextAddr nnn)
  | .addI x => (s.setIndex (BitVec.ofNat 16 (s.indexSum x))).setV VF (indexOverflowFlag (s.indexSum x))
  | .ldF x =>
    if (s.getV x).toNat ≤ 0xF then s.setIndex (glyphAddr s.cfg (s.getV x)) else s.afterDraw16.setIndex s.nextDraw16
  | .ldB x => s.writeBytes (dataAddr s.index 0) (bcdDigits (s.getV x))
  | .dump x => (s.writeBytes (dataAddr s.index 0) ((regsUpTo x).map s.getV)).advanceIndex s.index x
  | .load x => (s.loadRegs s.index (regsUpTo x)).advanceIndex s.index x
  | .drw x y n => s.finishDraw
      (s.blitRows s.index (s.getV x).toNat (s.getV y).toNat (List.range n.toNat) ⟨false, s.disp⟩)
  | .skp x => { s with pc := if s.keyDown (s.getV x).toNat then s.pc + 2 else s.pc }
  | .sknp x => { s with pc := if s.keyDown (s.getV x).toNat then s.pc else s.pc + 2 }
  | .ldVxDt x => s.setV x s.dt
  | .ldVxK x =>
    match s.lowestPressed with
    | some k => s.setV x (keyByte k)
    | none => { s with execState := .awaitingKey x }
  | .ldDtVx x => { s with dt := s.getV x }
  | .ldStVx x => if s.getV x = 0 then { s with st := s.getV x } else ({ s with st := s.getV x }).audioStart

/-- The fault, if there is one, else the state. -/
def State.orRaise (s : State) (fault : Option FaultKind) (go : State) : State :=
  match fault with
  | some k => s.raise k
  | none => go

section
variable (s : State)

@[simp] theorem State.orRaise_none (go : State) : s.orRaise none go = go := rfl

@[simp] theorem State.orRaise_some (k : FaultKind) (go : State) : s.orRaise (some k) go = s.raise k := rfl

@[simp] theorem State.orRaise_or (f g : Option FaultKind) (go : State) :
    s.orRaise (f.or g) go = s.orRaise f (s.orRaise g go) := by
  cases f <;> rfl

theorem State.orRaise_ite (c : Prop) [Decidable c] (k : FaultKind) (go : State) :
    s.orRaise (if c then some k else none) go = if c then s.raise k else go := by
  split <;> rfl

/-! ### The lists of registers that are read -/

@[simp] theorem State.unreadable_nil : s.unreadable [] = none := rfl

theorem State.unreadable_cons (r : RegName) (rs : List RegName) :
    s.unreadable (r :: rs) = (s.unreadable [r]).or (s.unreadable rs) := by
  unfold State.unreadable
  cases h : s.canRead r <;> simp [h]

@[simp] theorem State.unreadable_pair (r q : RegName) :
    s.unreadable [r, q] = (s.unreadable [r]).or (s.unreadable [q]) := s.unreadable_cons r [q]

theorem State.unreadable_drw (x y : RegIdx) (n : Nibble) : s.unreadable ((Instr.drw x y n).reads s.cfg) =
    (s.unreadable [x.castSucc]).or ((s.unreadable [y.castSucc]).or (if n.toNat = 0 then none else s.unreadable [16])) := by
  change s.unreadable (x.castSucc :: y.castSucc :: if n.toNat = 0 then [] else [16]) = _
  rw [State.unreadable_cons, s.unreadable_cons y.castSucc, apply_ite s.unreadable, State.unreadable_nil]

/-! ### The checked reads -/

theorem State.withV_eq (r : RegIdx) (go : Byte → State) :
    s.withV r go = s.orRaise (s.unreadable [r.castSucc]) (go (s.getV r)) := by
  unfold State.withV State.unreadable
  cases h : s.canReadV r <;> simp [s.canRead_castSucc, h]

theorem State.withIndex_eq (go : Word → State) :
    s.withIndex go = s.orRaise (s.unreadable [16]) (go s.index) := by
  unfold State.withIndex State.unreadable
  cases h : s.canReadIndex <;> simp [s.canRead_sixteen, h]

theorem State.withAllV_eq (rs : List RegIdx) (go : State) :
    s.withAllV rs go = s.orRaise (s.unreadable (rs.map Fin.castSucc)) go := by
  induction rs with
  | nil => rfl
  | cons r rest ih =>
    rw [State.withAllV, State.withV_eq, ih, ← State.orRaise_or, ← State.unreadable_cons, List.map_cons]

theorem State.inMemory_eq (k : Nat) (go : State) : s.inMemory s.index k go = s.orRaise (s.outOfRange k) go :=
  (s.orRaise_ite _ _ go).symm

theorem State.withKey_eq (x : RegIdx) (go : Bool → State) :
    s.withKey (s.getV x) go = s.orRaise (s.badKey x) (go (s.keyDown (s.getV x).toNat)) :=
  (s.orRaise_ite _ _ _).symm

/-- FX1E reads its addend, then `I`, which its immediate form reads alone. -/
theorem State.withIndexAddend_eq (x : RegIdx) (go : Word → Word → State) :
    s.withIndexAddend x (fun w => s.withIndex (go w)) =
      s.orRaise (s.unreadable ((Instr.addI x).reads s.cfg)) (go (s.indexAddend x) s.index) := by
  obtain ⟨h, e⟩ | ⟨h, e⟩ := s.withIndexAddend_cases x fun w => s.withIndex (go w)
  · rw [e, State.withIndex_eq]
    simp only [State.indexAddend, Instr.reads, h]
  · rw [e, State.withV_eq, State.withIndex_eq, ← State.orRaise_or, ← State.unreadable_cons]
    simp only [State.indexAddend, Instr.reads, h]

end

/-! ### The instructions -/

theorem State.top_of_empty {s : State} (h : s.stack = []) : s.top = none := by
  unfold State.top
  rw [h]
  rfl

theorem State.top_of_nonempty {s : State} (h : s.stack ≠ []) : s.top = some (s.top.getD 0) := by
  unfold State.top
  rw [List.getLast?_eq_some_getLast h]
  rfl

/-- What an instruction does: it raises its fault and nothing else happens, or it completes. -/
theorem exec_eq (i : Instr) (s : State) : exec i s = .next (s.orRaise (s.faultOf i) (s.completed i)) := by
  cases i with
  | cls | jp | ldImm | ldI | rnd | ldVxDt | ldVxK => rfl
  | ret =>
    simp only [exec, execRet, State.faultOf, Instr.reads, State.unreadable_nil, Option.none_or, State.ruleFault,
      State.orRaise_ite, State.completed]
    by_cases h : s.stack = []
    · rw [if_pos h, State.top_of_empty h]
    · rw [if_neg h, State.top_of_nonempty h]
      rfl
  | addI x =>
    simp only [exec, execAddI, State.withIndexAddend_eq, State.faultOf, State.ruleFault, State.completed,
      State.orRaise_or, State.orRaise_ite]
    rfl
  | drw x y n =>
    simp only [exec, execDrw, State.withV_eq, State.withIndex_eq, State.faultOf, State.ruleFault, State.completed,
      State.unreadable_drw, State.orRaise_or, Option.or_none]
    by_cases h : n.toNat = 0
    · simp only [h, if_true]; rfl
    · simp only [h, if_false]
  | sknp x =>
    simp only [exec, execSknp, State.withV_eq, State.withKey_eq, State.skipIf_eq, State.faultOf, Instr.reads,
      State.ruleFault, State.completed, State.orRaise_or]
    cases s.keyDown (s.getV x).toNat <;> rfl
  | call => simp [exec, execCall, State.faultOf, Instr.reads, State.ruleFault, State.orRaise_ite, State.completed]
  | seImm | sneImm | seReg | sneReg | jpV0 =>
    simp [exec, execSeImm, execSneImm, execSeReg, execSneReg, execJpV0, State.withV_eq, State.skipIf_eq,
      State.faultOf, Instr.reads, State.ruleFault, State.completed]
  | addImm | ldReg | shr | shl | ldF | ldDtVx | ldStVx =>
    simp [exec, execAddImm, execLdReg, execShr, execShl, execLdF, execLdDtVx, execLdStVx, State.withV_eq,
      State.faultOf, Instr.reads, State.ruleFault, State.completed]
  | orReg | andReg | xorReg =>
    simp [exec, execOrReg, execAndReg, execXorReg, State.binaryNoFlag, State.withV_eq,
      State.faultOf, Instr.reads, State.ruleFault, State.completed]
  | addReg | subReg | subnReg =>
    simp [exec, execAddReg, execSubReg, execSubnReg, State.binaryWithFlag, State.withV_eq,
      State.faultOf, Instr.reads, State.ruleFault, State.completed]
  | ldB | dump | load =>
    simp [exec, execLdB, execDump, execLoad, State.withV_eq, State.withIndex_eq, State.withAllV_eq, State.inMemory_eq,
      State.faultOf, Instr.reads, State.ruleFault, State.completed]
  | skp =>
    simp [exec, execSkp, State.withV_eq, State.withKey_eq, State.skipIf_eq,
      State.faultOf, Instr.reads, State.ruleFault, State.completed]

/-- What an instruction can do: raise its fault, or complete with none. -/
theorem exec_cases {i : Instr} {s t : State} (h : exec i s = .next t) :
    (∃ k, s.faultOf i = some k ∧ t = s.raise k) ∨ (s.faultOf i = none ∧ t = s.completed i) := by
  have e : s.orRaise (s.faultOf i) (s.completed i) = t := Host.Outcome.next.inj ((exec_eq i s).symm.trans h)
  cases hf : s.faultOf i with
  | none => rw [hf] at e; exact .inr ⟨rfl, e.symm⟩
  | some k => rw [hf] at e; exact .inl ⟨k, rfl, e.symm⟩

theorem exec_of_fault {i : Instr} {s : State} {k : FaultKind} (h : s.faultOf i = some k) :
    exec i s = .next (s.raise k) := by rw [exec_eq, h, State.orRaise_some]

theorem exec_of_noFault {i : Instr} {s : State} (h : s.faultOf i = none) : exec i s = .next (s.completed i) := by
  rw [exec_eq, h, State.orRaise_none]

/-! ### When no register is unreadable -/

theorem State.unreadable_eq_none {s : State} {rs : List RegName} (h : ∀ q ∈ rs, s.canRead q = true) :
    s.unreadable rs = none := by
  simpa [State.unreadable] using h

/-- An instruction that can read its registers raises what its rule raises. -/
theorem State.faultOf_of_readable {s : State} {i : Instr} (h : ∀ q ∈ i.reads s.cfg, s.canRead q = true) :
    s.faultOf i = s.ruleFault i := by
  cases i with
  | dump x =>
    obtain ⟨hI, hV⟩ := List.forall_mem_cons.mp h
    simp only [State.faultOf, State.unreadable_eq_none hV, State.unreadable_eq_none (s := s) (rs := [16]) (by simpa using hI),
      Option.none_or, Option.or_none]
  | _ => simp only [State.faultOf, State.unreadable_eq_none h, Option.none_or]

theorem exec_of_readable {s : State} {i : Instr} (h : ∀ q ∈ i.reads s.cfg, s.canRead q = true) :
    exec i s = .next (s.orRaise (s.ruleFault i) (s.completed i)) := by
  rw [exec_eq, State.faultOf_of_readable h]

end Sys2Proof.Machine
end

section
/-! What an instruction leaves as it was: one rule per operation of the state, and the frame of every instruction from them. -/

namespace Sys2Proof.Machine

/-! ### A write leaves every other address as it was, in canonical form or not -/

theorem Memory.find_erase_ne (m : Memory) {a c : Nat} (h : c ≠ a) : (m.erase a).find c = m.find c := by
  induction m with
  | nil => rfl
  | cons p rest ih =>
    obtain ⟨k, b⟩ := p
    unfold Memory.erase
    split
    · rename_i hk
      exact (if_neg fun e => h (e.symm.trans hk)).symm
    · rw [Memory.find, Memory.find, ih]

theorem Memory.find_write_ne (cfg : Config) (m : Memory) {a c : Nat} (b : Byte) (h : c ≠ a) :
    (Memory.write cfg m a b).find c = m.find c := by
  unfold Memory.write
  split
  · split
    · exact Memory.find_erase_ne m h
    · rw [Memory.find_insert, if_neg h]
  · rfl

theorem State.readByte_writeByte_ne (s : State) {a c : Nat} (b : Byte) (h : c ≠ a) :
    (s.writeByte a b).readByte c = s.readByte c := by
  unfold State.readByte Memory.read
  rw [State.writeByte_mem, State.writeByte_cfg, Memory.find_write_ne _ _ b h]

theorem State.readByte_writeBytes_outside (s : State) {a c : Nat} {bs : List Byte}
    (h : c < a ∨ a + bs.length ≤ c) : (s.writeBytes a bs).readByte c = s.readByte c := by
  induction bs generalizing s a with
  | nil => rfl
  | cons b rest ih =>
    rw [List.length_cons] at h
    rw [State.writeBytes, ih _ (by omega), State.readByte_writeByte_ne _ _ (by omega)]

/-- An address outside a run of addresses from `I`. -/
theorem outside_of_not_mem {i : Word} {n a : Nat} (h : a ∉ (List.range n).map (dataAddr i)) :
    a < dataAddr i 0 ∨ dataAddr i 0 + n ≤ a := by
  by_contra hin
  refine h (List.mem_map.mpr ⟨a - i.toNat, ?_, ?_⟩)
  · simp only [dataAddr, List.mem_range] at *; omega
  · simp only [dataAddr] at *; omega

/-! ### The rules -/

section
variable {w : Writes} {s t : State}

theorem Frame.refl (w : Writes) (s : State) : Frame w s s :=
  ⟨fun _ _ => ⟨rfl, rfl⟩, fun _ => ⟨rfl, rfl⟩, fun _ => rfl, fun _ => rfl, fun _ => rfl, fun _ => rfl, fun _ => ⟨rfl, rfl⟩,
    fun _ => ⟨rfl, rfl⟩, fun _ _ => rfl, fun _ => ⟨rfl, rfl⟩, fun _ _ => rfl, rfl, rfl, rfl, rfl⟩

/-- A fault writes nothing (60_exceptions.md R222). -/
theorem Frame.raise (w : Writes) (s : State) (k : FaultKind) : Frame w s (s.raise k) :=
  { Frame.refl w s with execState := fun _ h => by cases h }

theorem Frame.setV (h : Frame w s t) {r : RegIdx} (hr : r ∈ w.regs) (b : Byte) : Frame w s (t.setV r b) :=
  { h with
    regs := fun q hq => by
      have hne : q ≠ r := fun e => hq (e ▸ hr)
      rw [State.getV_setV, State.vWritten_setV_get, if_neg hne, if_neg hne]
      exact h.regs q hq }

theorem Frame.setIndex (h : Frame w s t) (hw : w.index = true) (i : Word) : Frame w s (t.setIndex i) :=
  { h with index := fun hf => absurd (hw.symm.trans hf) nofun }

theorem Frame.setPc (h : Frame w s t) (hw : w.pc = true) (a : Word) : Frame w s { t with pc := a } :=
  { h with pc := fun hf => absurd (hw.symm.trans hf) nofun }

theorem Frame.setStack (h : Frame w s t) (hw : w.stack = true) (l : List Word) : Frame w s { t with stack := l } :=
  { h with stack := fun hf => absurd (hw.symm.trans hf) nofun }

theorem Frame.setDt (h : Frame w s t) (hw : w.dt = true) (b : Byte) : Frame w s { t with dt := b } :=
  { h with dt := fun hf => absurd (hw.symm.trans hf) nofun }

theorem Frame.setSt (h : Frame w s t) (hw : w.st = true) (b : Byte) : Frame w s { t with st := b } :=
  { h with st := fun hf => absurd (hw.symm.trans hf) nofun }

theorem Frame.audioStart (h : Frame w s t) (hw : w.gate = true) : Frame w s t.audioStart :=
  { h with gate := fun hf => absurd (hw.symm.trans hf) nofun }

theorem Frame.setDisplay (h : Frame w s t) (hw : w.display = true) (d : Display) (b : Bool) :
    Frame w s { t with disp := d, dirty := b } :=
  { h with display := fun hf => absurd (hw.symm.trans hf) nofun }

theorem Frame.wait (h : Frame w s t) (hw : w.waits = true) (x : RegIdx) :
    Frame w s { t with execState := .awaitingKey x } :=
  { h with execState := fun hf => absurd (hw.symm.trans hf) nofun }

theorem Frame.setDraws (h : Frame w s t) (hw : w.draws = true) (bs : List Byte) (n : Nat) :
    Frame w s { t with randomInputs := bs, draws := n } :=
  { h with draws := fun hf => absurd (hw.symm.trans hf) nofun }

theorem Frame.afterDraw8 (h : Frame w s t) (hw : w.draws = true) : Frame w s t.afterDraw8 := by
  rw [State.afterDraw8_eq]
  exact h.setDraws hw _ _

theorem Frame.writeAlu (h : Frame w s t) {x : RegIdx} (hx : x ∈ w.regs) (hf : VF ∈ w.regs) (r : AluResult) :
    Frame w s (t.writeAlu x r) := (h.setV hx _).setV hf _

theorem Frame.loadRegs (h : Frame w s t) (i : Word) {rs : List RegIdx} (hr : ∀ r ∈ rs, r ∈ w.regs) :
    Frame w s (t.loadRegs i rs) := by
  induction rs generalizing t with
  | nil => exact h
  | cons r rest ih =>
    obtain ⟨hr, hrest⟩ := List.forall_mem_cons.mp hr
    exact ih (h.setV hr _) hrest

theorem Frame.setMem (h : Frame w s t) {m : Memory}
    (hw : ∀ a, a ∉ w.memory → ({ t with mem := m } : State).readByte a = t.readByte a) :
    Frame w s { t with mem := m } :=
  { h with memory := fun a ha => (hw a ha).trans (h.memory a ha) }

theorem Frame.writeBytes (h : Frame w s t) (i : Word) {bs : List Byte}
    (hw : (List.range bs.length).map (dataAddr i) = w.memory) : Frame w s (t.writeBytes (dataAddr i 0) bs) := by
  rw [State.writeBytes_only_mem]
  refine h.setMem fun a ha => ?_
  rw [← State.writeBytes_only_mem]
  exact State.readByte_writeBytes_outside t (outside_of_not_mem (hw ▸ ha))

end

/-! ### Every instruction -/

/-- What an instruction writes in a state. -/
def State.writes (s : State) : Instr → Writes
  | .cls => { display := true }
  | .ret => { pc := true, stack := true }
  | .jp _ => { pc := true }
  | .call _ => { pc := true, stack := true }
  | .seImm _ _ => { pc := true }
  | .sneImm _ _ => { pc := true }
  | .seReg _ _ => { pc := true }
  | .sneReg _ _ => { pc := true }
  | .jpV0 _ => { pc := true }
  | .ldImm x _ => { regs := [x] }
  | .addImm x _ => { regs := if s.cfg.addImmWritesVF then [x, VF] else [x] }
  | .ldReg x _ => { regs := [x] }
  | .orReg x _ => { regs := [x] }
  | .andReg x _ => { regs := [x] }
  | .xorReg x _ => { regs := [x] }
  | .addReg x _ => { regs := [x, VF] }
  | .subReg x _ => { regs := [x, VF] }
  | .shr x _ => { regs := [x, VF] }
  | .subnReg x _ => { regs := [x, VF] }
  | .shl x _ => { regs := [x, VF] }
  | .rnd x _ => { regs := [x], draws := true }
  | .ldI _ => { index := true }
  | .addI _ => { index := true, regs := [VF] }
  | .ldF _ => { index := true, draws := true }
  | .ldB _ => { memory := (List.range 3).map (dataAddr s.index) }
  | .dump x => { index := true, memory := (List.range (x.val + 1)).map (dataAddr s.index) }
  | .load x => { index := true, regs := regsUpTo x }
  | .drw _ _ _ => { display := true, regs := [VF] }
  | .skp _ => { pc := true }
  | .sknp _ => { pc := true }
  | .ldVxDt x => { regs := [x] }
  | .ldVxK x => { regs := [x], waits := true }
  | .ldDtVx _ => { dt := true }
  | .ldStVx _ => { st := true, gate := true }

theorem completed_frame (i : Instr) (s : State) : Frame (s.writes i) s (s.completed i) := by
  have same := Frame.refl (s.writes i) s
  cases i with
  | cls => exact same.setDisplay rfl _ _
  | ret | call => exact (same.setStack rfl _).setPc rfl _
  | jp | seImm | sneImm | seReg | sneReg | jpV0 | skp | sknp => exact same.setPc rfl _
  | ldImm | ldReg | orReg | andReg | xorReg | ldVxDt => exact same.setV (List.mem_singleton_self _) _
  | addReg | subReg | shr | subnReg | shl => exact same.writeAlu (by simp [State.writes]) (by simp [State.writes]) _
  | addImm x nn =>
    rw [State.completed]
    split
    · rename_i hf
      exact same.writeAlu (by simp [State.writes, hf]) (by simp [State.writes, hf]) _
    · rename_i hf
      exact same.setV (by simp [State.writes, hf]) _
  | rnd => exact (same.afterDraw8 rfl).setV (List.mem_singleton_self _) _
  | ldI => exact same.setIndex rfl _
  | addI => exact (same.setIndex rfl _).setV (List.mem_singleton_self _) _
  | ldF x =>
    rw [State.completed]
    split
    · exact same.setIndex rfl _
    · exact (same.setDraws rfl _ _).setIndex rfl _
  | ldB => exact same.writeBytes s.index rfl
  | dump x => exact (same.writeBytes s.index (by simp [State.writes, length_regsUpTo])).setIndex rfl _
  | load => exact (same.loadRegs s.index fun _ hr => hr).setIndex rfl _
  | drw => exact (same.setDisplay rfl _ _).setV (List.mem_singleton_self _) _
  | ldVxK x =>
    rw [State.completed]
    split
    · exact same.setV (List.mem_singleton_self _) _
    · exact same.wait rfl _
  | ldDtVx => exact same.setDt rfl _
  | ldStVx x =>
    rw [State.completed]
    split
    · exact same.setSt rfl _
    · exact (same.setSt rfl _).audioStart rfl

/-- Whether it faults or completes, an instruction writes what `State.writes` names and nothing else. -/
theorem exec_frame {i : Instr} {s t : State} (h : exec i s = .next t) : Frame (s.writes i) s t := by
  obtain ⟨k, -, rfl⟩ | ⟨-, rfl⟩ := exec_cases h
  · exact Frame.raise _ s k
  · exact completed_frame i s

/-- Settles O57: the frames of these instructions. -/
theorem frameOfControlTransfer : Obligations.FrameOfControlTransfer := by
  intro s t x y nn nnn
  refine ⟨?_, ?_⟩
  · rintro (h | h) <;> exact exec_frame h
  · rintro (h | h | h | h | h | h) <;> exact exec_frame h

/-- Settles O58: the frames of these instructions. -/
theorem frameOfLoadsAndArithmetic : Obligations.FrameOfLoadsAndArithmetic := by
  intro s t x y nn
  refine ⟨?_, exec_frame, ?_, exec_frame⟩
  · rintro (h | h | h | h | h) <;> exact exec_frame h
  · rintro (h | h | h | h | h) <;> exact exec_frame h

/-- Settles O59: the frames of these instructions; they hold of any memory, canonical or not. -/
theorem frameOfIndexAndMemory : Obligations.FrameOfIndexAndMemory :=
  fun _ _ _ _ _ => ⟨exec_frame, exec_frame, exec_frame, exec_frame, exec_frame, exec_frame⟩

/-- Settles O60: the frames of these instructions. -/
theorem frameOfDisplayKeysAndTimers : Obligations.FrameOfDisplayKeysAndTimers := by
  intro s t x y n
  refine ⟨exec_frame, exec_frame, ?_, exec_frame, exec_frame, exec_frame, exec_frame⟩
  rintro (h | h) <;> exact exec_frame h

end Sys2Proof.Machine
end

section
/-! The cycle: what a step does in each of its cases, forward and back (40_cycle_and_dispatch.md R100 to R117). -/

namespace Sys2Proof.Machine

/-! ### The fetch tests -/

theorem State.pcBeyondMemory_iff (s : State) : s.pcBeyondMemory = true ↔ 0xFFF ≤ s.pc.toNat := by
  simp only [State.pcBeyondMemory, memSize, decide_eq_true_eq]; omega

theorem State.pcBeyondMemory_eq_false (s : State) : s.pcBeyondMemory = false ↔ s.pc.toNat ≤ 0xFFE := by
  rw [← Bool.not_eq_true, State.pcBeyondMemory_iff]; omega

theorem State.pcMisaligned_iff (s : State) :
    s.pcMisaligned = true ↔ s.pc.toNat % 2 = 1 ∧ s.cfg.oddPcPolicy = .fault := by
  simp [State.pcMisaligned, BitVec.getLsbD, Nat.testBit_zero]

/-! ### The step, case by case -/

section
variable {s : State}

theorem step_of_beyondMemory (run : s.execState = .running) (h : 0xFFF ≤ s.pc.toNat) :
    step s = .next { s with execState := .halted } := by
  rw [step_eq_runCycle run, runCycle, if_pos (s.pcBeyondMemory_iff.mpr h)]

theorem step_of_misaligned (run : s.execState = .running) (h : s.pc.toNat ≤ 0xFFE) (odd : s.pcMisaligned = true) :
    step s = .next (s.raiseWith none (.misalignedPc s.pc)) := by
  rw [step_eq_runCycle run, runCycle, s.pcBeyondMemory_eq_false.mpr h, if_neg Bool.false_ne_true, if_pos odd]

theorem step_eq_runFetched (run : s.execState = .running) (h : s.pc.toNat ≤ 0xFFE) (aligned : s.pcMisaligned = false) :
    step s = runFetched (s.readWord s.pc.toNat) s.fetched := by
  rw [step_eq_runCycle run, runCycle, s.pcBeyondMemory_eq_false.mpr h, if_neg Bool.false_ne_true, aligned,
    if_neg Bool.false_ne_true]

theorem step_of_lastWord (run : s.execState = .running) (h : s.pc.toNat = 0xFFE) (aligned : s.pcMisaligned = false) :
    step s = .next { s.fetched with execState := .halted } := by
  have top : memSize ≤ s.fetched.pc.toNat := by rw [toNat_fetched_pc (by omega), h]
  rw [step_eq_runFetched run (by omega) aligned, runFetched, if_pos top]

theorem step_eq_executeWord (run : s.execState = .running) (h : s.pc.toNat < 0xFFE) (aligned : s.pcMisaligned = false) :
    step s = executeWord (s.readWord s.pc.toNat) s.fetched := by
  have below : ¬ memSize ≤ s.fetched.pc.toNat := by
    rw [toNat_fetched_pc (by omega), memSize]; omega
  rw [step_eq_runFetched run (by omega) aligned, runFetched, if_neg below]

theorem step_of_invalid (run : s.execState = .running) (h : s.pc.toNat < 0xFFE) (aligned : s.pcMisaligned = false)
    {e : DecodeError} (hd : decodeWord (s.readWord s.pc.toNat) = .error e) :
    step s = .next (s.fetched.raise (.invalidOpcode (s.readWord s.pc.toNat))) := by
  rw [step_eq_executeWord run h aligned, executeWord, hd]

theorem step_of_executes {i : Instr} {u : State} (hx : Executes s i) (hu : exec i s.fetched = .next u) :
    step s = .next (finishCycle u) := by
  obtain ⟨run, fits, aligned, hd⟩ := hx
  rw [step_eq_executeWord run (by omega) aligned, executeWord, hd]
  simp only [hu]

end

/-! ### The execution state an instruction leaves -/

/-- An instruction that raises no fault leaves the execution state, but for FX0A when it finds no key (45_timers_and_keys.md R204). -/
theorem completed_execState (i : Instr) (s : State) : (s.completed i).execState = s.execState ∨
    ∃ x, i = .ldVxK x ∧ s.lowestPressed = none ∧ (s.completed i).execState = .awaitingKey x := by
  cases i with
  | ldVxK x =>
    rw [State.completed]
    cases h : s.lowestPressed with
    | none => exact .inr ⟨x, rfl, rfl, rfl⟩
    | some k => exact .inl rfl
  | addImm | ldF | ldStVx => left; rw [State.completed]; split <;> rfl
  | rnd => left; rw [State.completed, State.afterDraw8_eq]; rfl
  | ldB => left; rw [State.completed, State.writeBytes_only_mem]
  | dump => left; rw [State.completed, State.writeBytes_only_mem]; rfl
  | load => left; rw [State.completed, State.loadRegs_eq]; rfl
  | _ => exact .inl rfl

theorem State.isFaulted_iff (s : State) : s.isFaulted = true ↔ ∃ kind snap, s.execState = .faulted kind snap := by
  unfold State.isFaulted
  split <;> simp_all

theorem completed_isFaulted {s : State} (run : s.execState = .running) (i : Instr) :
    (s.completed i).isFaulted = false := by
  unfold State.isFaulted
  obtain h | ⟨x, -, -, h⟩ := completed_execState i s
  · rw [h, run]
  · rw [h]

/-! ### Everything a step can do -/

/-- The cases of a cycle that answers a next state (40_cycle_and_dispatch.md R100 to R113), each with the state it leaves. -/
inductive Stepped (s : State) : State → Prop where
  | halted (h : s.execState = .halted) : Stepped s s
  | waits (r : RegIdx) (h : s.execState = .awaitingKey r) (noKey : s.lowestPressed = none) : Stepped s (timerTick s)
  | resolves (r : RegIdx) (k : Fin 16) (h : s.execState = .awaitingKey r) (key : s.lowestPressed = some k) :
      Stepped s (timerTick { s.setV r (keyByte k) with execState := .running })
  | beyondMemory (run : s.execState = .running) (pc : 0xFFF ≤ s.pc.toNat) : Stepped s { s with execState := .halted }
  | misaligned (run : s.execState = .running) (pc : s.pc.toNat ≤ 0xFFE) (odd : s.pcMisaligned = true) :
      Stepped s (s.raiseWith none (.misalignedPc s.pc))
  | lastWord (run : s.execState = .running) (pc : s.pc.toNat = 0xFFE) (aligned : s.pcMisaligned = false) :
      Stepped s { s.fetched with execState := .halted }
  | invalid (run : s.execState = .running) (pc : s.pc.toNat < 0xFFE) (aligned : s.pcMisaligned = false)
      (undecoded : ∃ e, decodeWord (s.readWord s.pc.toNat) = .error e) :
      Stepped s (s.fetched.raise (.invalidOpcode (s.readWord s.pc.toNat)))
  | faults (i : Instr) (k : FaultKind) (ex : Executes s i) (fault : s.fetched.faultOf i = some k) :
      Stepped s (s.fetched.raise k)
  | completes (i : Instr) (ex : Executes s i) (noFault : s.fetched.faultOf i = none) :
      Stepped s (timerTick (s.fetched.completed i))

theorem finishCycle_of_notFaulted {s : State} (h : s.isFaulted = false) : finishCycle s = timerTick s := by
  rw [finishCycle, h, if_neg Bool.false_ne_true]

theorem stepped_of_step {s t : State} (h : step s = .next t) : Stepped s t := by
  obtain ⟨he, rfl⟩ | ⟨r, he, rfl⟩ | ⟨run, pc, rfl⟩ | ⟨run, pc, odd, rfl⟩ | ⟨run, pc, aligned, rfl⟩ |
    ⟨run, pc, aligned, undecoded, rfl⟩ | ⟨i, u, ex, hu, rfl⟩ := step_cases h
  · exact .halted he
  · unfold awaitKeyCycle
    split
    · exact .resolves r _ he ‹_›
    · exact .waits r he ‹_›
  · exact .beyondMemory run pc
  · exact .misaligned run pc odd
  · exact .lastWord run pc aligned
  · exact .invalid run pc aligned undecoded
  · obtain ⟨k, fault, rfl⟩ | ⟨noFault, rfl⟩ := exec_cases hu
    · exact .faults i k ex fault
    · rw [finishCycle_of_notFaulted (completed_isFaulted (s := s.fetched) ex.running i)]
      exact .completes i ex noFault

/-- A step that executes an instruction raises its fault or completes it and ticks. -/
theorem step_eq_of_executes {s t : State} {i : Instr} (hx : Executes s i) (h : step s = .next t) :
    (∃ k, s.fetched.faultOf i = some k ∧ t = s.fetched.raise k) ∨
    (s.fetched.faultOf i = none ∧ t = timerTick (s.fetched.completed i)) := by
  obtain ⟨u, hu⟩ := exec_total i s.fetched
  obtain rfl : finishCycle u = t := Host.Outcome.next.inj ((step_of_executes hx hu).symm.trans h)
  obtain ⟨k, fault, rfl⟩ | ⟨noFault, rfl⟩ := exec_cases hu
  · exact .inl ⟨k, fault, rfl⟩
  · exact .inr ⟨noFault, finishCycle_of_notFaulted (completed_isFaulted (s := s.fetched) hx.running i)⟩

/-! ### The statements about the cycle -/

/-- Settles O6: the fetched word is the two bytes joined, the one at `pc` the high one. -/
theorem fetchIsBigEndian : Obligations.FetchIsBigEndian := by
  refine fun s => ⟨s.readWord s.pc.toNat, rfl, ?_, ?_⟩
  · exact BitVec.extractLsb'_append_eq_left
  · exact BitVec.extractLsb'_append_eq_right

/-- Settles O11: the cases before the dispatch do not apply, and every instruction answers a next state. -/
theorem stepRunsTheDecodedInstruction : Obligations.StepRunsTheDecodedInstruction := by
  intro s i hx
  obtain ⟨t, ht⟩ := exec_total i s.fetched
  exact ⟨t, ht, step_of_executes hx ht⟩

/-- Settles O12: the fault is raised in the state the fetch left. -/
theorem invalidWordRaisesInvalidOpcode : Obligations.InvalidWordRaisesInvalidOpcode := by
  rintro s w run fits aligned rfl hd
  exact step_of_invalid run (by omega) aligned hd

/-- A cycle that completes an instruction leaves the core running, or awaiting a key in FX0A. -/
theorem completes_execState {s : State} {i : Instr} (ex : Executes s i) :
    (timerTick (s.fetched.completed i)).execState = .running ∨
    ∃ x, i = .ldVxK x ∧ s.lowestPressed = none ∧ (timerTick (s.fetched.completed i)).execState = .awaitingKey x := by
  rw [timerTick_execState]
  obtain h | h := completed_execState i s.fetched
  · exact .inl (h.trans ex.running)
  · exact .inr h

/-- Settles O13: the halts are the cases of the step at 0xFFE and above, and no other case leaves a halted core. -/
theorem haltsExactlyAtTheTopOfMemory : Obligations.HaltsExactlyAtTheTopOfMemory := by
  intro s run
  refine ⟨step_of_beyondMemory run, fun pc => ?_, fun pc t ht => ?_⟩
  · have aligned : s.pcMisaligned = false := by
      rw [← Bool.not_eq_true, State.pcMisaligned_iff, pc]; simp
    have pc2 : s.pc + 2 = 0x1000 := BitVec.eq_of_toNat_eq ((toNat_fetched_pc (by omega)).trans (by rw [pc]; rfl))
    rw [step_of_lastWord run pc aligned, State.fetched, pc2, pc]
  · cases stepped_of_step ht with
    | halted h | waits _ h | resolves _ _ h => cases run.symm.trans h
    | beyondMemory _ pc' => omega
    | lastWord _ pc' => omega
    | misaligned | invalid | faults => nofun
    | completes i ex =>
      obtain h | ⟨x, -, -, h⟩ := completes_execState ex
      · rw [h]; nofun
      · rw [h]; nofun

/-- Settles O15: `cycle` answers the fault, and the call returns it. -/
theorem faultedCoreHasNoStep : Obligations.FaultedCoreHasNoStep := by
  intro s kind snap h
  have hs := step_of_faulted h
  exact ⟨hs, by rw [callResult, hs]⟩

theorem State.lowestPressed_of_least {s : State} {k : Fin 16} (hk : s.keys[k] = true)
    (below : ∀ j : Fin 16, j < k → s.keys[j] = false) : s.lowestPressed = some k := by
  refine (s.lowestPressed_eq_some k).mpr ⟨hk, fun j hj => ?_⟩
  by_contra hlt
  rw [below j (lt_of_not_ge hlt)] at hj
  cases hj

/-- Settles O16: the cycle branches on the lowest pressed key. -/
theorem awaitingKeyResolvesToTheLowestKey : Obligations.AwaitingKeyResolvesToTheLowestKey := by
  refine fun s r h => ⟨fun none => ?_, fun k hk below => ?_⟩
  · rw [step_of_awaitingKey h, awaitKeyCycle, s.lowestPressed_eq_none.mpr none]
  · rw [step_of_awaitingKey h, awaitKeyCycle, State.lowestPressed_of_least hk below]
    rfl

/-- Settles O18: each case of the step makes one of the listed transitions. -/
theorem executionStateTransitions : Obligations.ExecutionStateTransitions := by
  intro s t ht
  cases stepped_of_step ht with
  | halted h => rw [h]
  | waits r h noKey =>
    rw [h]
    exact .inl ⟨(timerTick_execState s).trans h, s.lowestPressed_eq_none.mp noKey⟩
  | resolves r k h key =>
    rw [h]
    exact .inr ⟨timerTick_execState _, k, State.keys_of_lowestPressed key⟩
  | beyondMemory run | lastWord run => rw [run]; exact .inr (.inl rfl)
  | misaligned run | invalid run => rw [run]; exact .inr (.inr (.inl rfl))
  | faults i k ex => rw [ex.running]; exact .inr (.inr (.inl rfl))
  | completes i ex =>
    rw [ex.running]
    obtain h | ⟨x, rfl, noKey, h⟩ := completes_execState ex
    · exact .inl h
    · exact .inr (.inr (.inr ⟨x, h, ex, s.lowestPressed_eq_none.mp noKey⟩))

/-! ### Faults -/

theorem unreadable_eq_some {s : State} {rs : List RegName} {k : FaultKind} (h : s.unreadable rs = some k) :
    ∃ r ∈ rs, s.canRead r = false ∧ k = .unwrittenRegister r := by
  obtain ⟨r, hr, rfl⟩ := Option.map_eq_some_iff.mp h
  exact ⟨r, List.mem_of_find?_eq_some hr, by simpa using List.find?_some hr, rfl⟩

/-- Only `Unwritten` makes a register unreadable (10_state.md R38). -/
theorem policy_of_canRead_false {s : State} {r : RegName} (h : s.canRead r = false) :
    s.cfg.resetRegisterPolicy = .unwritten := by
  cases hp : s.cfg.resetRegisterPolicy with
  | unwritten => rfl
  | zero =>
    unfold State.canRead at h
    split at h
    · rw [s.canReadV_of_zero hp] at h; cases h
    · rw [s.canReadIndex_of_zero hp] at h; cases h

theorem ruleFault_code {s : State} {i : Instr} {k : FaultKind} (h : s.ruleFault i = some k) : k.code ∈ i.faultCodes := by
  cases i with
  | ret | call | skp | sknp | addI | ldB | dump | load =>
    obtain ⟨-, h⟩ := Option.ite_none_right_eq_some.mp h
    cases h
    exact List.mem_singleton_self _
  | _ => cases h

/-- A fault is the instruction's own, or that of a register it reads. -/
theorem faultOf_cases {s : State} {i : Instr} {k : FaultKind} (h : s.faultOf i = some k) :
    s.ruleFault i = some k ∨ ∃ r ∈ i.reads s.cfg, s.canRead r = false ∧ k = .unwrittenRegister r := by
  cases i with
  | dump x =>
    obtain h | ⟨-, h⟩ := Option.or_eq_some_iff.mp h
    · obtain ⟨r, hr, hf⟩ := unreadable_eq_some h
      exact .inr ⟨r, List.mem_cons.mpr (.inl (List.mem_singleton.mp hr)), hf⟩
    obtain h | ⟨-, h⟩ := Option.or_eq_some_iff.mp h
    · exact .inl h
    · obtain ⟨r, hr, hf⟩ := unreadable_eq_some h
      exact .inr ⟨r, List.mem_cons_of_mem _ hr, hf⟩
  | _ =>
    simp only [State.faultOf] at h
    obtain h | ⟨-, h⟩ := Option.or_eq_some_iff.mp h
    · exact .inr (unreadable_eq_some h)
    · exact .inl h

/-- Settles O24: an instruction that completes is not faulted, and one that raises raises its own fault or that of a register it reads. -/
theorem faultKindsOfEachInstruction : Obligations.FaultKindsOfEachInstruction := by
  intro i s t kind snap safe ht hf
  obtain ⟨k, fault, rfl⟩ | ⟨-, rfl⟩ := exec_cases ht
  · cases hf
    obtain h | ⟨r, hr, unread, rfl⟩ := faultOf_cases fault
    · exact .inl (ruleFault_code h)
    · exact .inr ⟨policy_of_canRead_false unread, r, hr, unread, rfl⟩
  · exfalso
    obtain h | ⟨x, -, -, h⟩ := completed_execState i s
    · exact Bool.false_ne_true (safe.symm.trans (s.isFaulted_iff.mpr ⟨kind, snap, h.symm.trans hf⟩))
    · rw [h] at hf; cases hf

theorem unreadable_of_find {s : State} {rs : List RegName} {r : RegName}
    (h : rs.find? (fun q => !s.canRead q) = some r) : s.unreadable rs = some (.unwrittenRegister r) := by
  rw [State.unreadable, h]; rfl

/-- Settles O25: the register checks come first; in FX55 the range check is between `I` and `V[0]`, and finds nothing. -/
theorem firstUnwrittenRegisterReadFaults : Obligations.FirstUnwrittenRegisterReadFaults := by
  intro i s r hfind range
  have fault : s.faultOf i = some (.unwrittenRegister r) := by
    cases i with
    | dump x =>
      have first : ((s.unreadable [16]).or (s.unreadable ((regsUpTo x).map Fin.castSucc))) = some (.unwrittenRegister r) :=
        (s.unreadable_cons _ _).symm.trans (unreadable_of_find hfind)
      rw [State.faultOf]
      obtain h | ⟨h, hV⟩ := Option.or_eq_some_iff.mp first
      · rw [h]; rfl
      · have ne : r ≠ 16 := by
          rintro rfl
          have unread : s.canRead 16 = false := by simpa using List.find?_some hfind
          simp [State.unreadable, unread] at h
        have fits : s.ruleFault (.dump x) = none := if_neg (by have := range x rfl ne; simp only [dataAddr]; omega)
        rw [h, fits, hV]; rfl
    | _ => simp only [State.faultOf, unreadable_of_find hfind, Option.some_or]
  exact exec_of_fault fault

/-- No instruction raises `MisalignedPc` (60_exceptions.md R221). -/
theorem faultOf_code {s : State} {i : Instr} {k : FaultKind} (h : s.faultOf i = some k) : k.code ≠ 7 := by
  obtain h | ⟨r, -, -, rfl⟩ := faultOf_cases h
  · have hc := ruleFault_code h
    cases i <;> simp_all [Instr.faultCodes]
  · simp [FaultKind.code]

/-- The cycles that raise a fault: before the fetch, or after it with the word fetched (60_exceptions.md R222). -/
theorem raises_of_step {s t : State} {kind : FaultKind} {snap : Snapshot} (run : s.execState = .running)
    (ht : step s = .next t) (hf : t.execState = .faulted kind snap) :
    (s.pcMisaligned = true ∧ kind = .misalignedPc s.pc ∧ t = s.raiseWith none kind) ∨
    (kind.code ≠ 7 ∧ t = s.fetched.raise kind) := by
  cases stepped_of_step ht with
  | halted h | waits _ h | resolves _ _ h => cases run.symm.trans h
  | beyondMemory | lastWord => cases hf
  | misaligned _ _ odd => cases hf; exact .inl ⟨odd, rfl, rfl⟩
  | invalid => cases hf; exact .inr ⟨by simp [FaultKind.code], rfl⟩
  | faults i k ex fault => cases hf; exact .inr ⟨faultOf_code fault, rfl⟩
  | completes i ex =>
    obtain h | ⟨x, -, -, h⟩ := completes_execState ex <;> rw [h] at hf <;> cases hf

/-- Settles O22: only the alignment test raises `MisalignedPc`; it comes after the test that `pc` is in memory. -/
theorem oddPcFaultsOnlyUnderTheFaultPolicy : Obligations.OddPcFaultsOnlyUnderTheFaultPolicy := by
  refine fun s run => ⟨fun h => ?_, fun policy odd fits => ?_, fun beyond => step_of_beyondMemory run (by omega)⟩
  · have aligned : s.pcMisaligned = false := by
      rw [← Bool.not_eq_true, State.pcMisaligned_iff]
      rintro ⟨odd, policy⟩
      obtain h | h := h
      · rw [h] at policy; cases policy
      · omega
    refine ⟨aligned, fun t kind snap ht hf => ?_⟩
    obtain ⟨odd, -⟩ | ⟨code, -⟩ := raises_of_step run ht hf
    · rw [aligned] at odd; cases odd
    · exact code
  · exact step_of_misaligned run (by omega) (s.pcMisaligned_iff.mpr ⟨odd, policy⟩)

/-- Settles O23: a fault is raised in the state before the fetch or in the state it left, and `raise` writes `exec` alone. -/
theorem faultsArePrecise : Obligations.FaultsArePrecise := by
  intro s t kind snap run ht hf
  obtain ⟨-, rfl, rfl⟩ | ⟨code, rfl⟩ := raises_of_step run ht hf
  · cases hf
    exact ⟨rfl, rfl, rfl, rfl, rfl, .inl ⟨rfl, rfl, rfl⟩⟩
  · cases hf
    exact ⟨rfl, rfl, rfl, rfl, rfl, .inr ⟨code, rfl, rfl⟩⟩

end Sys2Proof.Machine
end

section
/-! The timer: which cycles tick, what one tick does, and what many do (40_cycle_and_dispatch.md R114; 60_exceptions.md R228). -/

namespace Sys2Proof.Machine

/-! ### Which cycles tick -/

/-- The divider reloads from 1, and in the model from 0 too (log entry 24). -/
theorem timerTick_div_eq (s : State) :
    (timerTick s).div = if s.div = 1 ∨ s.div = 0 then s.cfg.timerDivider else s.div - 1 := by
  have last : s.div - 1 = 0 ↔ s.div = 1 ∨ s.div = 0 := by omega
  rw [timerTick_div]
  simp only [last]

/-- The divider after the tick of a cycle that completes an instruction. -/
theorem completes_div (i : Instr) (s : State) : (timerTick (s.fetched.completed i)).div =
    if s.div = 1 ∨ s.div = 0 then s.cfg.timerDivider else s.div - 1 := by
  have frame := completed_frame i s.fetched
  rw [timerTick_div_eq, frame.div, frame.cfg]
  rfl

/-- Settles O19: each case of the step either ticks once or leaves the divider, the counters and the gate. -/
theorem dividerCountsTheTickingCycles : Obligations.DividerCountsTheTickingCycles := by
  intro s t ht
  cases stepped_of_step ht with
  | halted h => simp [h]
  | waits r h => exact ⟨fun _ => timerTick_div_eq s, fun no => absurd (.inr ⟨r, h⟩) no⟩
  | resolves r k h => exact ⟨fun _ => timerTick_div_eq _, fun no => absurd (.inr ⟨r, h⟩) no⟩
  | beyondMemory run | lastWord run => simp [run]
  | misaligned run | invalid run => simp [run, State.isFaulted]
  | faults i k ex => simp [ex.running]
  | completes i ex =>
    refine ⟨fun _ => completes_div i s, fun no => absurd (.inl ⟨ex.running, ?_, ?_⟩) no⟩
    · rw [isFaulted_timerTick]
      exact completed_isFaulted (s := s.fetched) ex.running i
    · obtain h | ⟨x, -, -, h⟩ := completes_execState ex <;> rw [h] <;> nofun

/-! ### One tick -/

/-- A tick before the divider's last count. -/
theorem timerTick_earlier {s : State} (h : 2 ≤ s.div) : timerTick s = { s with div := s.div - 1 } := by
  obtain ⟨-, e⟩ | ⟨h', -⟩ := timerTick_cases s
  · exact e
  · omega

/-- A counter falls by one, saturating at 0 (60_exceptions.md R228). -/
theorem toNat_fall (b : Byte) : (if b = 0 then 0 else b - 1).toNat = b.toNat - 1 := by
  revert b; decide

section
variable {s : State} (h : s.div = 1)
include h

theorem timerTick_last_div : (timerTick s).div = s.cfg.timerDivider := by rw [timerTick_last (by omega)]

theorem timerTick_last_dt : (timerTick s).dt.toNat = s.dt.toNat - 1 := by
  rw [timerTick_last (by omega)]; exact toNat_fall s.dt

theorem timerTick_last_st : (timerTick s).st.toNat = s.st.toNat - 1 := by
  rw [timerTick_last (by omega)]; exact toNat_fall s.st

/-- Exactly the step from 1 to 0 stops the gate (60_exceptions.md R228). -/
theorem timerTick_last_stops (one : s.st.toNat = 1) :
    (timerTick s).audio = false ∧ (timerTick s).events = s.events ++ [.stop] := by
  rw [timerTick_last (by omega)]
  exact ⟨if_pos one, if_pos one⟩

theorem timerTick_last_keeps_gate (other : s.st.toNat ≠ 1) :
    (timerTick s).audio = s.audio ∧ (timerTick s).events = s.events := by
  rw [timerTick_last (by omega)]
  exact ⟨if_neg other, if_neg other⟩

end

/-- Settles O20: the two cases of a tick. -/
theorem timerTickRule : Obligations.TimerTickRule :=
  fun s _ => ⟨timerTick_earlier, fun h => ⟨_, rfl, timerTick_last_div h, timerTick_last_dt h, timerTick_last_st h,
    timerTick_last_stops h, timerTick_last_keeps_gate h, timerTick_frame s⟩⟩

/-! ### Many ticks -/

/-- How often the divider reaches 0 in `k` ticks. -/
def State.falls (s : State) (k : Nat) : Nat := (k + s.cfg.timerDivider - s.div) / s.cfg.timerDivider

section
variable {s : State}

theorem State.falls_zero (pos : 1 ≤ s.div) (le : s.div ≤ s.cfg.timerDivider) : s.falls 0 = 0 :=
  Nat.div_eq_of_lt (by omega)

theorem State.falls_earlier (h : 2 ≤ s.div) (k : Nat) : s.falls (k + 1) = (timerTick s).falls k := by
  rw [timerTick_earlier h]
  unfold State.falls
  congr 1
  change k + 1 + s.cfg.timerDivider - s.div = k + s.cfg.timerDivider - (s.div - 1)
  omega

theorem State.falls_last (h : s.div = 1) (le : s.div ≤ s.cfg.timerDivider) (k : Nat) :
    s.falls (k + 1) = (timerTick s).falls k + 1 := by
  unfold State.falls
  rw [timerTick_last_div h, timerTick_cfg, h, Nat.add_sub_cancel, ← Nat.add_div_right _ (by omega)]
  congr 1
  omega

/-- A tick keeps the divider in its range. -/
theorem timerTick_div_range (pos : 1 ≤ s.div) (le : s.div ≤ s.cfg.timerDivider) :
    1 ≤ (timerTick s).div ∧ (timerTick s).div ≤ (timerTick s).cfg.timerDivider := by
  rw [timerTick_div_eq, timerTick_cfg]
  split <;> omega

/-- No tick turns the gate on. -/
theorem timerTick_audio_off (off : s.audio = false) : (timerTick s).audio = false := by
  obtain ⟨-, e⟩ | ⟨h, -⟩ := timerTick_cases s
  · rw [e, off]
  · rw [timerTick_last h]
    change (if s.st.toNat = 1 then false else s.audio) = false
    rw [off, ite_self]

theorem timerTick_iterate_audio_off (off : s.audio = false) (k : Nat) : (timerTick^[k] s).audio = false := by
  induction k generalizing s with
  | zero => exact off
  | succ k ih => exact ih (timerTick_audio_off off)

/-- A counter that falls by one exactly when the divider reaches 0 falls as often as it does. -/
theorem iterate_counter (c : State → Nat) (earlier : ∀ s, 2 ≤ s.div → c (timerTick s) = c s)
    (last : ∀ s, s.div = 1 → c (timerTick s) = c s - 1) (k : Nat) (pos : 1 ≤ s.div) (le : s.div ≤ s.cfg.timerDivider) :
    c (timerTick^[k] s) = c s - s.falls k := by
  induction k generalizing s with
  | zero => rw [State.falls_zero pos le]; rfl
  | succ k ih =>
    obtain ⟨pos', le'⟩ := timerTick_div_range pos le
    rw [Function.iterate_succ_apply, ih pos' le']
    obtain h | h : s.div = 1 ∨ 2 ≤ s.div := by omega
    · rw [last s h, State.falls_last h le, Nat.sub_sub, Nat.add_comm]
    · rw [earlier s h, State.falls_earlier h]

/-- A sounding gate is on until the tick in which the sound counter reaches 0. -/
theorem iterate_audio (k : Nat) (pos : 1 ≤ s.div) (le : s.div ≤ s.cfg.timerDivider) (st : s.st.toNat ≠ 0)
    (on : s.audio = true) :
    (timerTick^[k] s).audio = true ↔ k < s.cfg.timerDivider * (s.st.toNat - 1) + s.div := by
  induction k generalizing s with
  | zero => exact iff_of_true on (by omega)
  | succ k ih =>
    obtain ⟨pos', le'⟩ := timerTick_div_range pos le
    rw [Function.iterate_succ_apply]
    obtain h | h : 2 ≤ s.div ∨ s.div = 1 := by omega
    · have e := timerTick_earlier h
      rw [ih pos' le' (by rwa [e]) (by rwa [e]), e]
      change k < s.cfg.timerDivider * (s.st.toNat - 1) + (s.div - 1) ↔ _
      omega
    · by_cases one : s.st.toNat = 1
      · rw [timerTick_iterate_audio_off (timerTick_last_stops h one).1, one, h]
        simp
      · obtain ⟨n, hn⟩ : ∃ n, s.st.toNat = n + 2 := ⟨s.st.toNat - 2, by omega⟩
        have st' : (timerTick s).st.toNat = n + 1 := by rw [timerTick_last_st h, hn]; rfl
        rw [ih pos' le' (by omega) ((timerTick_last_keeps_gate h one).1.trans on), timerTick_cfg, timerTick_last_div h, st',
          h, hn]
        change k < s.cfg.timerDivider * n + s.cfg.timerDivider ↔ k + 1 < s.cfg.timerDivider * (n + 1) + 1
        rw [Nat.mul_succ]
        omega

end

/-- Settles O21: both counters fall when the divider reaches 0, and the gate goes off with the sound counter. -/
theorem countersFallOncePerDividerPeriod : Obligations.CountersFallOncePerDividerPeriod := by
  refine fun s k pos le => ⟨?_, ?_, fun st on => iterate_audio k pos le (fun e => st (BitVec.eq_of_toNat_eq e)) on⟩
  · exact iterate_counter (fun s => s.dt.toNat) (fun s h => by rw [timerTick_earlier h])
      (fun s h => timerTick_last_dt h) k pos le
  · exact iterate_counter (fun s => s.st.toNat) (fun s h => by rw [timerTick_earlier h])
      (fun s h => timerTick_last_st h) k pos le

end Sys2Proof.Machine
end

section
/-! What every cycle keeps: the gate follows the events, the display is written by two instructions, and the invariant
(10_state.md R25 to R33; 60_exceptions.md R229). -/

namespace Sys2Proof.Machine

/-! ### The gate and the events -/

/-- The gate after some events: as the last of them says, or as it was. -/
def gateAfter (gate : Bool) (es : List AudioEvent) : Bool :=
  match es.getLast? with
  | none => gate
  | some .start => true
  | some .stop => false

/-- `t` follows `s` by emitting events, with the gate as they leave it. -/
def Gated (s t : State) : Prop := ∃ es, t.events = s.events ++ es ∧ t.audio = gateAfter s.audio es

theorem gateAfter_append (gate : Bool) (es fs : List AudioEvent) :
    gateAfter gate (es ++ fs) = gateAfter (gateAfter gate es) fs := by
  unfold gateAfter
  rw [List.getLast?_append]
  cases fs.getLast? with
  | none => rfl
  | some e => cases e <;> rfl

section
variable {s t u : State}

theorem Gated.of_eq (events : t.events = s.events) (audio : t.audio = s.audio) : Gated s t :=
  ⟨[], events.trans (List.append_nil _).symm, audio⟩

theorem Gated.trans (h : Gated s t) (h' : Gated t u) : Gated s u := by
  obtain ⟨es, he, ha⟩ := h
  obtain ⟨fs, he', ha'⟩ := h'
  exact ⟨es ++ fs, by rw [he', he, List.append_assoc], by rw [ha', ha, gateAfter_append]⟩

theorem completed_gated (i : Instr) (s : State) : Gated s (s.completed i) := by
  have frame := completed_frame i s
  cases i with
  | ldStVx x =>
    rw [State.completed]
    split
    · exact .of_eq rfl rfl
    · exact ⟨[.start], rfl, rfl⟩
  | _ => exact .of_eq (frame.gate rfl).2 (frame.gate rfl).1

theorem timerTick_gated (s : State) : Gated s (timerTick s) := by
  obtain ⟨-, e⟩ | ⟨h, -⟩ := timerTick_cases s
  · rw [e]; exact .of_eq rfl rfl
  · rw [timerTick_last h]
    by_cases one : s.st.toNat = 1
    · exact ⟨[.stop], if_pos one, if_pos one⟩
    · exact .of_eq (if_neg one) (if_neg one)

theorem step_gated (ht : step s = .next t) : Gated s t := by
  cases stepped_of_step ht with
  | halted | beyondMemory | misaligned | lastWord | invalid | faults => exact .of_eq rfl rfl
  | waits => exact timerTick_gated s
  | resolves r k => exact timerTick_gated { s.setV r (keyByte k) with execState := .running }
  | completes i => exact (completed_gated i s.fetched).trans (timerTick_gated _)

end

/-- Settles O31: FX18 starts the gate, a tick stops it, and nothing else touches it or the events. -/
theorem gateFollowsTheEvents : Obligations.GateFollowsTheEvents := fun _ _ ht => step_gated ht

/-! ### The display -/

section
variable {s t : State}

/-- Only CLS and DXYN write the display. -/
theorem completed_display (i : Instr) (s : State) :
    ((s.completed i).disp = s.disp ∧ (s.completed i).dirty = s.dirty) ∨
    ((s.completed i).dirty = true ∧ (i = .cls ∨ ∃ x y n, i = .drw x y n)) := by
  have frame := completed_frame i s
  cases i with
  | cls => exact .inr ⟨rfl, .inl rfl⟩
  | drw x y n => exact .inr ⟨rfl, .inr ⟨x, y, n, rfl⟩⟩
  | _ => exact .inl (frame.display rfl)

theorem step_display (ht : step s = .next t) :
    (t.disp = s.disp ∧ t.dirty = s.dirty) ∨
    (t.dirty = true ∧ (Executes s .cls ∨ ∃ x y n, Executes s (.drw x y n))) := by
  cases stepped_of_step ht with
  | halted | beyondMemory | misaligned | lastWord | invalid | faults => exact .inl ⟨rfl, rfl⟩
  | waits => exact .inl ⟨timerTick_disp s, timerTick_dirty s⟩
  | resolves => exact .inl ⟨timerTick_disp _, timerTick_dirty _⟩
  | completes i ex =>
    rw [timerTick_disp, timerTick_dirty]
    obtain same | ⟨dirty, rfl | ⟨x, y, n, rfl⟩⟩ := completed_display i s.fetched
    · exact .inl same
    · exact .inr ⟨dirty, .inl ex⟩
    · exact .inr ⟨dirty, .inr ⟨x, y, n, ex⟩⟩

theorem step_cls (ex : Executes s .cls) (ht : step s = .next t) : t.dirty = true ∧ t.disp = Display.blank := by
  obtain ⟨k, fault, -⟩ | ⟨-, rfl⟩ := step_eq_of_executes ex ht
  · cases fault
  · rw [timerTick_disp, timerTick_dirty]; exact ⟨rfl, rfl⟩

/-- The buffer DXYN leaves (44_display.md R191). -/
theorem completed_drw_disp (s : State) (x y : RegIdx) (n : Nibble) {col row : Nat} (hc : col < 64) (hr : row < 32) :
    Display.get (s.completed (.drw x y n)).disp col row =
      (Display.get s.disp col row ^^ spriteBit s (s.getV x).toNat (s.getV y).toNat n.toNat col row) :=
  State.get_blitRows s _ _ _ s.disp hc hr

theorem step_drw {x y : RegIdx} {n : Nibble} (ex : Executes s (.drw x y n)) (ht : step s = .next t)
    (ok : t.isFaulted = false) : t.dirty = true ∧ ∀ col row, col < 64 → row < 32 → Display.get t.disp col row =
      (Display.get s.disp col row ^^ spriteBit s (s.getV x).toNat (s.getV y).toNat n.toNat col row) := by
  obtain ⟨k, -, rfl⟩ | ⟨-, rfl⟩ := step_eq_of_executes ex ht
  · cases ok
  · rw [timerTick_disp, timerTick_dirty]
    exact ⟨rfl, fun col row hc hr => completed_drw_disp s.fetched x y n hc hr⟩

end

@[simp] theorem State.setKey_disp (s : State) (k : Nat) (down : Bool) : (s.setKey k down).disp = s.disp := by
  unfold State.setKey
  split <;> rfl

@[simp] theorem State.setKey_dirty (s : State) (k : Nat) (down : Bool) : (s.setKey k down).dirty = s.dirty := by
  unfold State.setKey
  split <;> rfl

/-- Settles O30: the frame leaves CLS and DXYN, and what those two leave is `Display.blank` and the blit. -/
theorem onlyClearAndDrawWriteTheDisplay : Obligations.OnlyClearAndDrawWriteTheDisplay := by
  refine ⟨fun s t ht => ⟨fun dirty => ?_, fun changed => ?_, fun ex => ?_, fun x y n ex ok => step_drw ex ht ok⟩,
    fun s a => ?_⟩
  · obtain ⟨-, same⟩ | ⟨set, -⟩ := step_display ht
    · exact same.trans dirty
    · exact set
  · obtain ⟨disp, dirty⟩ | ⟨-, ex⟩ := step_display ht
    · obtain h | h := changed
      · exact absurd disp h
      · exact absurd dirty h
    · exact ex
  · obtain ⟨dirty, blank⟩ := step_cls ex ht
    exact ⟨dirty, fun col row => by rw [blank, Display.get_blank]⟩
  · cases a with
    | keyPressed | keyReleased => exact ⟨State.setKey_disp .., State.setKey_dirty ..⟩
    | acknowledgeDisplay | supplyRandom => exact ⟨rfl, rfl⟩

/-! ### How `pc` moves -/

theorem toNat_zextByte (b : Byte) : (zextByte b).toNat = b.toNat := BitVec.toNat_setWidth_of_le (by decide)

/-- The sum of BNNN does not wrap (41_control_flow.md R127). -/
theorem toNat_jpV0_target (nnn : Addr12) (b : Byte) : (zextAddr nnn + zextByte b).toNat = nnn.toNat + b.toNat := by
  rw [BitVec.toNat_add, toNat_zextAddr, toNat_zextByte]; omega

/-- A skip does not wrap. -/
theorem toNat_skip {pc : Word} (h : pc.toNat ≤ 0xFFF) (c : Prop) [Decidable c] :
    (if c then pc + 2 else pc).toNat = pc.toNat + if c then 2 else 0 := by
  split
  · rw [BitVec.toNat_add]; simp; omega
  · rfl

theorem toNat_skip_not {pc : Word} (h : pc.toNat ≤ 0xFFF) (c : Prop) [Decidable c] :
    (if c then pc else pc + 2).toNat = pc.toNat + if c then 0 else 2 := by
  rw [← ite_not, toNat_skip h, ite_not]

theorem fetch_and_skip (c : Prop) [Decidable c] : (2 + if c then 2 else 0) = if c then 4 else 2 := by split <;> rfl

theorem fetch_and_skip_not (c : Prop) [Decidable c] : (2 + if c then 0 else 2) = if c then 2 else 4 := by split <;> rfl

/-- The instructions that move `pc`: jumps, the return and the skips (10_state.md R25). -/
theorem completed_pc (i : Instr) {s : State} (h : s.pc.toNat ≤ 0xFFF) :
    match i with
    | .jp nnn => (s.completed i).pc.toNat = nnn.toNat
    | .call nnn => (s.completed i).pc.toNat = nnn.toNat
    | .jpV0 nnn => (s.completed i).pc.toNat = nnn.toNat + (s.getV 0).toNat
    | .ret => (s.completed i).pc = s.top.getD 0
    | .seImm x nn => (s.completed i).pc.toNat = s.pc.toNat + if s.getV x = nn then 2 else 0
    | .sneImm x nn => (s.completed i).pc.toNat = s.pc.toNat + if s.getV x = nn then 0 else 2
    | .seReg x y => (s.completed i).pc.toNat = s.pc.toNat + if s.getV x = s.getV y then 2 else 0
    | .sneReg x y => (s.completed i).pc.toNat = s.pc.toNat + if s.getV x = s.getV y then 0 else 2
    | .skp x => (s.completed i).pc.toNat = s.pc.toNat + if s.keyDown (s.getV x).toNat then 2 else 0
    | .sknp x => (s.completed i).pc.toNat = s.pc.toNat + if s.keyDown (s.getV x).toNat then 0 else 2
    | _ => (s.completed i).pc = s.pc := by
  have frame := completed_frame i s
  cases i with
  | jp nnn | call nnn => exact toNat_zextAddr nnn
  | jpV0 nnn => exact toNat_jpV0_target nnn _
  | ret => rfl
  | seImm | seReg | skp => exact toNat_skip h _
  | sneImm | sneReg | sknp => exact toNat_skip_not h _
  | _ => exact frame.pc rfl

/-- RET finds a pushed address, or it faults. -/
theorem State.top_of_noFault {s : State} (h : s.faultOf .ret = none) : s.top = some (s.top.getD 0) := by
  refine State.top_of_nonempty fun empty => ?_
  simp [State.faultOf, State.ruleFault, Instr.reads, empty] at h

theorem State.top_mem {s : State} {a : Word} (h : s.top = some a) : a ∈ s.stack := List.mem_of_getLast? h

/-- No value of `pc` passes 0x10FE (10_state.md R26). -/
theorem completed_pc_le {i : Instr} {s : State} (h : s.pc.toNat ≤ 0xFFF) (returns : ∀ a ∈ s.stack, a.toNat ≤ 0xFFF)
    (noFault : s.faultOf i = none) : (s.completed i).pc.toNat ≤ 0x10FE := by
  have moved := completed_pc i h
  cases i with
  | jp nnn | call nnn => dsimp only at moved; omega
  | jpV0 nnn => dsimp only at moved; omega
  | ret =>
    have top := returns _ (State.top_mem (State.top_of_noFault noFault))
    dsimp only at moved
    rw [moved]
    omega
  | seImm | sneImm | seReg | sneReg | skp | sknp =>
    dsimp only at moved
    rw [moved]
    split <;> omega
  | _ =>
    dsimp only at moved
    rw [moved]
    omega

/-! ### The invariant -/

section
variable {s : State}

/-- The gate is still on exactly when the last event was a start. -/
theorem Gated.gate {t : State} (h : Gated s t) (gate : s.audio = (s.events.getLast? == some .start)) :
    t.audio = (t.events.getLast? == some .start) := by
  obtain ⟨es, he, ha⟩ := h
  rw [ha, he, List.getLast?_append]
  unfold gateAfter
  cases es.getLast? with
  | none => exact gate
  | some e => cases e <;> rfl

/-- A core that has not faulted needs no snapshot. -/
theorem snapshot_of_notFaulted (safe : s.isFaulted = false) (kind : FaultKind) (snap : Snapshot)
    (h : s.execState = .faulted kind snap) : ∃ word, snap = s.snapshot word :=
  absurd (s.isFaulted_iff.mpr ⟨kind, snap, h⟩) (by rw [safe]; exact Bool.false_ne_true)

theorem Invariant.raiseWith (h : Invariant s) (w : Option Word) (k : FaultKind) : Invariant (s.raiseWith w k) :=
  { h with snapshot := fun _ _ e => by cases e; exact ⟨w, rfl⟩ }

theorem Invariant.halt (h : Invariant s) : Invariant { s with execState := .halted } :=
  { h with snapshot := nofun }

theorem Invariant.fetched (h : Invariant s) (run : s.execState = .running) (pc : s.pc.toNat ≤ 0xFFE) :
    Invariant s.fetched :=
  { h with
    pc := by rw [toNat_fetched_pc pc]; omega
    snapshot := fun _ _ e => by cases run.symm.trans e }

theorem Invariant.resolve (h : Invariant s) (r : RegIdx) (b : Byte) :
    Invariant { s.setV r b with execState := .running } :=
  { h with snapshot := nofun }

theorem Invariant.withMem (h : Invariant s) {m : Memory} (wf : Memory.wf s.cfg m) : Invariant { s with mem := m } :=
  { h with mem := wf }

/-- The sound counter reaches 0 only where the gate goes off. -/
theorem timerTick_sounding (h : s.st ≠ 0 → s.audio = true) : (timerTick s).st ≠ 0 → (timerTick s).audio = true := by
  obtain ⟨-, e⟩ | ⟨last, -⟩ := timerTick_cases s
  · rw [e]; exact h
  · rw [timerTick_last last]
    intro (st : (if s.st = 0 then 0 else s.st - 1) ≠ 0)
    have zero : s.st ≠ 0 := fun e => st (if_pos e)
    have one : s.st.toNat ≠ 1 := fun e => st (by rw [BitVec.eq_of_toNat_eq (y := 1) e]; rfl)
    exact (if_neg one).trans (h zero)

theorem Invariant.timerTick (h : Invariant s) : Invariant (timerTick s) := by
  obtain ⟨divPos, divLe⟩ := timerTick_div_range h.divPos h.divLe
  have snap : ∀ word, (Machine.timerTick s).snapshot word = s.snapshot word := by simp [State.snapshot]
  exact {
    cfg := by rw [timerTick_cfg]; exact h.cfg
    mem := by rw [timerTick_cfg, timerTick_mem]; exact h.mem
    depth := by rw [timerTick_stack]; exact h.depth
    returns := by rw [timerTick_stack]; exact h.returns
    pc := by rw [timerTick_pc]; exact h.pc
    divPos, divLe
    gate := (timerTick_gated s).gate h.gate
    sounding := timerTick_sounding h.sounding
    snapshot := by simpa only [timerTick_execState, snap] using h.snapshot }

/-- Only FX33 and FX55 write memory, byte by byte. -/
theorem completed_mem_wf (i : Instr) (h : Memory.wf s.cfg s.mem) : Memory.wf s.cfg (s.completed i).mem := by
  cases i with
  | ldB | dump => exact State.writeBytes_wf h _ _
  | addImm | ldF | ldStVx | ldVxK => rw [State.completed]; split <;> exact h
  | rnd => rw [State.completed, State.afterDraw8_eq]; exact h
  | load => rw [State.completed, State.loadRegs_eq]; exact h
  | _ => exact h

/-- RET shortens the stack; CALL pushes `pc` below depth 16; nothing else touches it. -/
theorem completed_stack {i : Instr} (noFault : s.faultOf i = none) (depth : s.stack.length ≤ 16)
    (returns : ∀ a ∈ s.stack, a.toNat ≤ 0xFFF) (pc : s.pc.toNat ≤ 0xFFF) :
    (s.completed i).stack.length ≤ 16 ∧ ∀ a ∈ (s.completed i).stack, a.toNat ≤ 0xFFF := by
  have frame := completed_frame i s
  cases i with
  | ret =>
    refine ⟨(s.stack.length_dropLast).trans_le (by omega), fun a ha => returns a (List.mem_of_mem_dropLast ha)⟩
  | call nnn =>
    have room : ¬ stackCap ≤ s.stack.length := by
      intro full
      simp [State.faultOf, State.ruleFault, Instr.reads, full] at noFault
    refine ⟨?_, fun a ha => ?_⟩
    · change (s.stack ++ [s.pc]).length ≤ 16
      rw [List.length_append, List.length_singleton]
      exact Nat.lt_of_not_le room
    · obtain ha | ha := List.mem_append.mp ha
      · exact returns a ha
      · rw [List.mem_singleton.mp ha]; exact pc
  | _ => rw [frame.stack rfl]; exact ⟨depth, returns⟩

/-- FX18 sets a nonzero sound counter only with the gate on. -/
theorem completed_sounding (i : Instr) (h : s.st ≠ 0 → s.audio = true) :
    (s.completed i).st ≠ 0 → (s.completed i).audio = true := by
  have frame := completed_frame i s
  cases i with
  | ldStVx x =>
    rw [State.completed]
    split
    · rename_i zero; exact fun st => absurd zero st
    · exact fun _ => rfl
  | _ => rw [frame.st rfl, (frame.gate rfl).1]; exact h

theorem Invariant.completed (h : Invariant s) {i : Instr} (run : s.execState = .running) (pc : s.pc.toNat ≤ 0xFFF)
    (noFault : s.faultOf i = none) : Invariant (s.completed i) := by
  have frame := completed_frame i s
  obtain ⟨depth, returns⟩ := completed_stack noFault h.depth h.returns pc
  exact {
    cfg := by rw [frame.cfg]; exact h.cfg
    mem := by rw [frame.cfg]; exact completed_mem_wf i h.mem
    depth, returns
    pc := completed_pc_le pc h.returns noFault
    divPos := by rw [frame.div]; exact h.divPos
    divLe := by rw [frame.div, frame.cfg]; exact h.divLe
    gate := (completed_gated i s).gate h.gate
    sounding := completed_sounding i h.sounding
    snapshot := snapshot_of_notFaulted (completed_isFaulted run i) }

end

theorem Executes.fetched_pc {s : State} {i : Instr} (ex : Executes s i) :
    s.fetched.pc.toNat = s.pc.toNat + 2 ∧ s.fetched.pc.toNat ≤ 0xFFF := by
  have fits := ex.inMemory
  have e := toNat_fetched_pc (s := s) (by omega)
  exact ⟨e, by omega⟩

theorem Executes.fetched_invariant {s : State} {i : Instr} (ex : Executes s i) (h : Invariant s) : Invariant s.fetched :=
  h.fetched ex.running (by have := ex.inMemory; omega)

/-- Settles O26: every operation a cycle is made of keeps the invariant. -/
theorem stepKeepsTheInvariant : Obligations.StepKeepsTheInvariant := by
  intro s t h ht
  cases stepped_of_step ht with
  | halted => exact h
  | waits => exact h.timerTick
  | resolves r k => exact (h.resolve r _).timerTick
  | beyondMemory => exact h.halt
  | misaligned => exact h.raiseWith _ _
  | lastWord run pc => exact (h.fetched run pc.le).halt
  | invalid run pc => exact (h.fetched run pc.le).raiseWith _ _
  | faults i k ex => exact (ex.fetched_invariant h).raiseWith _ _
  | completes i ex noFault =>
    exact ((ex.fetched_invariant h).completed ex.running ex.fetched_pc.2 noFault).timerTick

/-- Settles O33: `pc` after the fetch is 2 more, and `completed_pc` says what each instruction makes of it. -/
theorem howThePcMoves : Obligations.HowThePcMoves := by
  refine ⟨fun s t i h ex ht ok => ?_, fun s t r hr ht => ?_, fun s t run pc ht => ?_⟩
  · obtain ⟨k, -, rfl⟩ | ⟨noFault, rfl⟩ := step_eq_of_executes ex ht
    · cases ok
    obtain ⟨next, low⟩ := ex.fetched_pc
    have le := completed_pc_le low h.returns noFault
    have moved := completed_pc i low
    rw [timerTick_pc]
    refine ⟨by omega, ?_⟩
    cases i with
    | jp | call | jpV0 => exact moved
    | ret => exact (State.top_of_noFault noFault).trans (congrArg some moved.symm)
    | seImm | seReg | skp =>
      refine (moved.trans (congrArg (· + _) next)).trans ?_
      exact (Nat.add_assoc ..).trans (congrArg _ (fetch_and_skip _))
    | sknp =>
      refine (moved.trans (congrArg (· + _) next)).trans ?_
      exact (Nat.add_assoc ..).trans (congrArg _ (fetch_and_skip_not _))
    | sneImm | sneReg =>
      refine (moved.trans (congrArg (· + _) next)).trans ?_
      exact (Nat.add_assoc ..).trans (congrArg _ ((fetch_and_skip_not _).trans (ite_not ..).symm))
    | _ => exact (congrArg BitVec.toNat moved).trans next
  · rw [step_of_awaitingKey hr] at ht
    cases ht
    unfold awaitKeyCycle
    split <;> rw [timerTick_pc]
    rfl
  · obtain ⟨beyond, last, -⟩ := haltsExactlyAtTheTopOfMemory s run
    obtain h | h : 0xFFF ≤ s.pc.toNat ∨ s.pc.toNat = 0xFFE := by omega
    · cases (beyond h).symm.trans ht; rfl
    · cases (last h).symm.trans ht; rfl

/-! ### Construction and the host -/

/-- Settles O10: each field by definition; memory lists nothing, so it reads as the reset contents. -/
theorem constructionLeavesTheResetValues : Obligations.ConstructionLeavesTheResetValues := by
  intro cfg
  refine ⟨⟨rfl, rfl, fun r => ?_, rfl, rfl, rfl, rfl, rfl, fun k => ?_, Display.get_blank, rfl, rfl, fun r => ?_, rfl,
    Memory.unlisted_glyph cfg, fun a => Memory.unlisted_outside, rfl, rfl, rfl, rfl, rfl⟩, rfl⟩
  · simp [State.getV]
  · by_cases hk : k < 16
    · simp [State.keyDown_of_lt _ hk]
    · exact State.keyDown_of_le _ (by omega)
  · simp

theorem construct_invariant {cfg : Config} (h : cfg.wellFormed) : Invariant (State.construct cfg) where
  cfg := h
  mem := Memory.nil_wf cfg
  depth := Nat.zero_le _
  returns := nofun
  pc := by rw [State.construct_pc]; decide
  divPos := h
  divLe := le_rfl
  gate := rfl
  sounding := nofun
  snapshot := nofun

/-- Settles O27: `reset` is the construction with the default parameters. -/
theorem constructionMeetsTheInvariant : Obligations.ConstructionMeetsTheInvariant :=
  ⟨fun _ => construct_invariant, construct_invariant (by decide)⟩

theorem Invariant.setKey {s : State} (h : Invariant s) (k : Nat) (down : Bool) : Invariant (s.setKey k down) := by
  unfold State.setKey
  split
  · exact { h with }
  · exact h

/-- Settles O28: the load writes memory through `writeBytes`, and no host action touches a field the invariant speaks of. -/
theorem hostKeepsTheInvariant : Obligations.HostKeepsTheInvariant := by
  refine ⟨fun s t bytes h ht => ?_, fun s a h => ?_⟩
  · by_cases fits : wellFormedProgram bytes
    · cases (loadProgram_of_fits fits s).symm.trans ht
      rw [State.writeBytes_only_mem]
      exact h.withMem (State.writeBytes_wf h.mem _ _)
    · cases (loadProgram_of_tooLong fits s).symm.trans ht
  · cases a with
    | keyPressed | keyReleased => exact h.setKey _ _
    | acknowledgeDisplay | supplyRandom => exact { h with }

end Sys2Proof.Machine
end

section
/-! The outputs influence nothing (10_state.md R33; 60_exceptions.md R229). `State.withOutputs` replaces the gate, the dirty flag, the events and the
sink; what an instruction or a tick makes of the rest of the state does not depend on them. -/

namespace Sys2Proof.Machine

/-- The outputs of a core: the gate, the dirty flag, the events so far, and whether a sink listens. -/
structure Outputs where
  audio : Bool
  dirty : Bool
  events : List AudioEvent
  sink : Bool

/-- The state with its outputs replaced. -/
def State.withOutputs (s : State) (o : Outputs) : State :=
  { s with audio := o.audio, dirty := o.dirty, events := o.events, cfg := { s.cfg with audioSinkPresent := o.sink } }

theorem sameButOutputs_iff (s t : State) : SameButOutputs s t ↔ ∃ o, t = s.withOutputs o :=
  ⟨fun h => ⟨⟨t.audio, t.dirty, t.events, t.cfg.audioSinkPresent⟩, h⟩, by rintro ⟨o, rfl⟩; rfl⟩

/-- From `s` and `t` two cores go on to `s'` and `t'`, which differ in the outputs alone, and have emitted the same events. -/
def Parallel (s t s' t' : State) : Prop :=
  SameButOutputs s' t' ∧ ∃ es, s'.events = s.events ++ es ∧ t'.events = t.events ++ es

section
variable {s : State} {o : Outputs}

theorem Parallel.of_silent {s t s' t' : State} (same : SameButOutputs s' t') (hs : s'.events = s.events)
    (ht : t'.events = t.events) : Parallel s t s' t' :=
  ⟨same, [], hs.trans (List.append_nil _).symm, ht.trans (List.append_nil _).symm⟩

theorem Parallel.trans {s t s' t' s'' t'' : State} (h : Parallel s t s' t') (h' : Parallel s' t' s'' t'') :
    Parallel s t s'' t'' := by
  obtain ⟨-, es, he, hf⟩ := h
  obtain ⟨same, fs, he', hf'⟩ := h'
  exact ⟨same, es ++ fs, by rw [he', he, List.append_assoc], by rw [hf', hf, List.append_assoc]⟩

theorem withOutputs_faultOf (i : Instr) : (s.withOutputs o).faultOf i = s.faultOf i := by
  cases i <;> rfl

theorem withOutputs_writeBytes (a : Nat) (bs : List Byte) :
    (s.withOutputs o).writeBytes a bs = (s.writeBytes a bs).withOutputs o := by
  induction bs generalizing s a with
  | nil => rfl
  | cons b rest ih => exact ih (s := s.writeByte a b) (a + 1)

theorem withOutputs_loadRegs (i : Word) (rs : List RegIdx) :
    (s.withOutputs o).loadRegs i rs = (s.loadRegs i rs).withOutputs o := by
  induction rs generalizing s with
  | nil => rfl
  | cons r rest ih => exact ih (s := s.setV r (s.readByte (dataAddr i r.val)))

theorem withOutputs_afterDraw8 : (s.withOutputs o).afterDraw8 = s.afterDraw8.withOutputs o := by
  unfold State.afterDraw8
  cases h : s.randomInputs <;> simp only [State.withOutputs, h]

/-- Does an instruction write an output? -/
def writesOutput : Instr → Bool
  | .cls => true
  | .drw _ _ _ => true
  | .ldStVx _ => true
  | _ => false

theorem withOutputs_completed {i : Instr} (h : writesOutput i = false) :
    (s.withOutputs o).completed i = (s.completed i).withOutputs o := by
  cases i with
  | cls | drw | ldStVx => cases h
  | addImm | ldF =>
    rw [State.completed, State.completed, apply_ite (State.withOutputs · o)]
    rfl
  | ldVxK x =>
    change (match s.lowestPressed with | some _ => _ | none => _) = _
    rw [State.completed]
    cases s.lowestPressed <;> rfl
  | rnd x nn => exact congrArg (State.setV · x (s.nextDraw8 &&& nn)) withOutputs_afterDraw8
  | ldB => exact withOutputs_writeBytes _ _
  | dump x => exact congrArg (State.advanceIndex · s.index x) (withOutputs_writeBytes _ _)
  | load x => exact congrArg (State.advanceIndex · s.index x) (withOutputs_loadRegs _ _)
  | _ => rfl

/-- An instruction does the same to the rest of the state, and emits the same, whatever the outputs are. -/
theorem completed_parallel (i : Instr) : Parallel s (s.withOutputs o) (s.completed i) ((s.withOutputs o).completed i) := by
  cases i with
  | cls | drw => exact .of_silent rfl rfl rfl
  | ldStVx x =>
    by_cases zero : s.getV x = 0
    · rw [State.completed, if_pos zero, State.completed, if_pos (show (s.withOutputs o).getV x = 0 from zero)]
      exact .of_silent rfl rfl rfl
    · rw [State.completed, if_neg zero, State.completed, if_neg (show (s.withOutputs o).getV x ≠ 0 from zero)]
      exact ⟨rfl, [.start], rfl, rfl⟩
  | _ =>
    refine .of_silent ((sameButOutputs_iff _ _).mpr ⟨o, withOutputs_completed rfl⟩) ?_ ?_
    · exact ((completed_frame _ s).gate rfl).2
    · exact ((completed_frame _ (s.withOutputs o)).gate rfl).2

theorem timerTick_parallel : Parallel s (s.withOutputs o) (timerTick s) (timerTick (s.withOutputs o)) := by
  obtain ⟨h, e⟩ | ⟨h, -⟩ := timerTick_cases s
  · rw [e, timerTick_earlier (s := s.withOutputs o) (show 2 ≤ s.div by omega)]
    exact .of_silent rfl rfl rfl
  · rw [timerTick_last h, timerTick_last (s := s.withOutputs o) h]
    by_cases one : s.st.toNat = 1
    · exact ⟨rfl, [.stop], if_pos one, if_pos one⟩
    · exact .of_silent rfl (if_neg one) (if_neg one)

/-- A parallel pair goes on in parallel through a tick. -/
theorem Parallel.tick {s' t' : State} (h : Parallel s (s.withOutputs o) s' t') :
    Parallel s (s.withOutputs o) (timerTick s') (timerTick t') := by
  obtain ⟨p, rfl⟩ := (sameButOutputs_iff _ _).mp h.1
  exact h.trans timerTick_parallel

theorem withOutputs_executes {i : Instr} (ex : Executes s i) : Executes (s.withOutputs o) i :=
  ⟨ex.running, ex.inMemory, ex.aligned, ex.decodes⟩

/-- A step goes the same way whatever the outputs are. -/
theorem step_parallel {s' : State} (hs : step s = .next s') :
    ∃ t', step (s.withOutputs o) = .next t' ∧ Parallel s (s.withOutputs o) s' t' := by
  cases stepped_of_step hs with
  | halted h => exact ⟨_, step_of_halted (s := s.withOutputs o) h, .of_silent rfl rfl rfl⟩
  | waits r h noKey =>
    refine ⟨_, step_of_awaitingKey (s := s.withOutputs o) h, ?_⟩
    rw [awaitKeyCycle, show (s.withOutputs o).lowestPressed = none from noKey]
    exact timerTick_parallel
  | resolves r k h key =>
    refine ⟨_, step_of_awaitingKey (s := s.withOutputs o) h, ?_⟩
    rw [awaitKeyCycle, show (s.withOutputs o).lowestPressed = some k from key]
    exact Parallel.tick (.of_silent rfl rfl rfl)
  | beyondMemory run pc => exact ⟨_, step_of_beyondMemory (s := s.withOutputs o) run pc, .of_silent rfl rfl rfl⟩
  | misaligned run pc odd => exact ⟨_, step_of_misaligned (s := s.withOutputs o) run pc odd, .of_silent rfl rfl rfl⟩
  | lastWord run pc aligned =>
    exact ⟨_, step_of_lastWord (s := s.withOutputs o) run pc aligned, .of_silent rfl rfl rfl⟩
  | invalid run pc aligned undecoded =>
    obtain ⟨e, hd⟩ := undecoded
    exact ⟨_, step_of_invalid (s := s.withOutputs o) run pc aligned hd, .of_silent rfl rfl rfl⟩
  | faults i k ex fault =>
    have same : (s.fetched.withOutputs o).faultOf i = some k := (withOutputs_faultOf i).trans fault
    exact ⟨_, step_of_executes (withOutputs_executes ex) (exec_of_fault same), .of_silent rfl rfl rfl⟩
  | completes i ex noFault =>
    have same : (s.fetched.withOutputs o).faultOf i = none := (withOutputs_faultOf i).trans noFault
    refine ⟨_, step_of_executes (withOutputs_executes ex) (exec_of_noFault same), ?_⟩
    rw [finishCycle_of_notFaulted (completed_isFaulted (s := (s.withOutputs o).fetched) ex.running i)]
    exact Parallel.tick (completed_parallel (s := s.fetched) i)

end

/-- Settles O32: the other core is the first with its outputs replaced, and the step commutes with that. -/
theorem outputsNeverInfluenceTheCore : Obligations.OutputsNeverInfluenceTheCore := by
  intro s t same
  obtain ⟨o, rfl⟩ := (sameButOutputs_iff s t).mp same
  refine ⟨fun s' h => step_parallel h, fun f h => ?_⟩
  cases hs : s.execState with
  | faulted kind snap =>
    rw [step_of_faulted hs] at h
    rw [step_of_faulted (s := s.withOutputs o) hs, h]
  | running => obtain ⟨u, hu⟩ := step_of_running hs; cases hu.symm.trans h
  | halted => cases (step_of_halted hs).symm.trans h
  | awaitingKey r => cases (step_of_awaitingKey hs).symm.trans h

end Sys2Proof.Machine
end

section
/-! What each instruction does when it can read its registers: control transfer, loads and arithmetic (41_control_flow.md; 42_load_and_alu.md). -/

namespace Sys2Proof.Machine

/-! ### Completing and raising -/

section
variable {s : State}

theorem canRead_none : ∀ q ∈ ([] : List RegName), s.canRead q = true := nofun

theorem canRead_one {x : RegIdx} (hx : s.canReadV x = true) : ∀ q ∈ [x.castSucc], s.canRead q = true :=
  List.forall_mem_singleton.mpr ((s.canRead_castSucc x).trans hx)

theorem canRead_two {x y : RegIdx} (hx : s.canReadV x = true) (hy : s.canReadV y = true) :
    ∀ q ∈ [x.castSucc, y.castSucc], s.canRead q = true :=
  List.forall_mem_cons.mpr ⟨(s.canRead_castSucc x).trans hx, canRead_one hy⟩

/-- An instruction with no unreadable register and no fault of its own completes. -/
theorem exec_completes {i : Instr} (reads : ∀ q ∈ i.reads s.cfg, s.canRead q = true) (rule : s.ruleFault i = none) :
    exec i s = .next (s.completed i) := by rw [exec_of_readable reads, rule, State.orRaise_none]

/-- An instruction with no unreadable register raises its own fault. -/
theorem exec_raises {i : Instr} {k : FaultKind} (reads : ∀ q ∈ i.reads s.cfg, s.canRead q = true)
    (rule : s.ruleFault i = some k) : exec i s = .next (s.raise k) := by
  rw [exec_of_readable reads, rule, State.orRaise_some]

end

/-! ### Control transfer -/

/-- Settles O34: the top is the last entry, and RET faults without one. -/
theorem returnPopsTheStack : Obligations.ReturnPopsTheStack := by
  refine fun s => ⟨fun rest a h => ?_, fun h => exec_raises (i := .ret) canRead_none (if_pos h)⟩
  have top : s.top = some a := by rw [State.top, h, List.getLast?_concat]
  have below : s.dropTop = { s with stack := rest } := by rw [State.dropTop, h, List.dropLast_concat]
  have rule : s.ruleFault .ret = none := if_neg (by rw [h]; exact List.concat_ne_nil a rest)
  rw [exec_completes (i := .ret) canRead_none rule, State.completed, top, below]
  rfl

/-- Settles O36: the depth check decides between the fault and the push. -/
theorem callPushesTheReturnAddress : Obligations.CallPushesTheReturnAddress := by
  refine fun nnn s => ⟨decodeWord_encode (.call nnn), fun room => ?_, fun full => ?_⟩
  · have rule : s.ruleFault (.call nnn) = none := if_neg (Nat.not_le_of_lt room)
    exact ⟨_, exec_completes (i := .call nnn) canRead_none rule, rfl, toNat_zextAddr nnn, rfl⟩
  · exact exec_raises (i := .call nnn) canRead_none (if_pos full.ge)

/-- Settles O37: `State.completed` of the four skips. -/
theorem skipsCompareRegisters : Obligations.SkipsCompareRegisters := by
  refine fun s x y nn hx => ⟨?_, ?_, fun hy => ⟨?_, ?_⟩⟩
  · exact exec_completes (i := .seImm x nn) (canRead_one hx) rfl
  · exact exec_completes (i := .sneImm x nn) (canRead_one hx) rfl
  · exact exec_completes (i := .seReg x y) (canRead_two hx hy) rfl
  · exact exec_completes (i := .sneReg x y) (canRead_two hx hy) rfl

/-- Settles O38: the sum of a 12-bit and an 8-bit number fits 16 bits. -/
theorem jumpWithOffsetAddsV0 : Obligations.JumpWithOffsetAddsV0 :=
  fun nnn _ h0 => ⟨_, exec_completes (i := .jpV0 nnn) (canRead_one h0) rfl, toNat_jpV0_target nnn _, rfl⟩

/-! ### Results and flags -/

section
variable (s : State) (x : RegIdx) (r : AluResult)

theorem State.getV_writeAlu_flag : (s.writeAlu x r).getV VF = r.flag := by rw [State.getV_writeAlu, if_pos rfl]

theorem State.getV_writeAlu_result (h : x ≠ VF) : (s.writeAlu x r).getV x = r.value := by
  rw [State.getV_writeAlu, if_neg h, if_pos rfl]

theorem State.getV_writeAlu_other {q : RegIdx} (hx : q ≠ x) (hf : q ≠ VF) : (s.writeAlu x r).getV q = s.getV q := by
  rw [State.getV_writeAlu, if_neg hf, if_neg hx]

end

section
variable (a b : Byte)

theorem toNat_aluAdd : (aluAdd a b).value.toNat = (a.toNat + b.toNat) % 256 := BitVec.toNat_ofNat ..

theorem flag_aluAdd : (aluAdd a b).flag = if a.toNat + b.toNat > 255 then 1 else 0 := by
  simp [aluAdd]

theorem toNat_aluSub : ((aluSub a b).value.toNat : Int) = ((a.toNat : Int) - b.toNat) % 256 := by
  have pos : 0 ≤ ((a.toNat : Int) - b.toNat) % 256 := Int.emod_nonneg _ (by decide)
  exact (congrArg Int.ofNat (BitVec.toNat_ofInt ..)).trans (Int.toNat_of_nonneg pos)

theorem flag_aluSub : (aluSub a b).flag = if a.toNat < b.toNat then 1 else 0 := by
  simp [aluSub]

theorem toNat_aluShr : (aluShr a).value.toNat = a.toNat / 2 := by
  simp [aluShr, Nat.shiftRight_eq_div_pow]

theorem flag_aluShr : (aluShr a).flag.toNat = a.toNat % 2 := by
  revert a; decide

theorem toNat_aluShl : (aluShl a).value.toNat = a.toNat * 2 % 256 := by
  simp [aluShl, Nat.shiftLeft_eq]

theorem flag_aluShl : (aluShl a).flag = if a.toNat ≥ 0x80 then 0x80 else 0x00 := by
  revert a; decide

end

/-! ### Loads and arithmetic -/

/-- Settles O40: one write of the result, or of the result and the flag. -/
theorem addImmediateWrapsModulo256 : Obligations.AddImmediateWrapsModulo256 := by
  intro s x nn hx
  refine ⟨_, exec_completes (i := .addImm x nn) (canRead_one hx) rfl, fun off => ?_, fun on => ?_, ?_⟩
  · rw [State.completed, if_neg (by rw [off]; exact Bool.false_ne_true), State.getV_setV_self]
    exact ⟨toNat_aluAdd _ nn, fun r hr => s.getV_setV_ne _ hr⟩
  · rw [State.completed, if_pos on, State.getV_writeAlu_flag]
    refine ⟨flag_aluAdd _ nn, fun hf => ?_, fun r hr hf => s.getV_writeAlu_other x _ hr hf⟩
    rw [s.getV_writeAlu_result x _ hf, toNat_aluAdd]
  · rw [State.completed]
    split <;> rfl

/-- Settles O41: one write of the result. -/
theorem assignAndLogicWriteOnlyTheResult : Obligations.AssignAndLogicWriteOnlyTheResult := by
  intro s x y hy
  refine ⟨⟨decodeWord_encode (.ldReg x y), _, exec_completes (i := .ldReg x y) (canRead_one hy) rfl,
    s.getV_setV_self x _, fun r => s.getV_setV_ne _⟩, fun hx => ⟨?_, ?_, ?_⟩⟩
  · refine ⟨_, exec_completes (i := .orReg x y) (canRead_two hx hy) rfl, fun r => s.getV_setV_ne _, fun k => ?_⟩
    rw [State.completed, State.getV_setV_self, BitVec.getLsbD_or]
  · refine ⟨_, exec_completes (i := .andReg x y) (canRead_two hx hy) rfl, fun r => s.getV_setV_ne _, fun k => ?_⟩
    rw [State.completed, State.getV_setV_self, BitVec.getLsbD_and]
  · refine ⟨_, exec_completes (i := .xorReg x y) (canRead_two hx hy) rfl, fun r => s.getV_setV_ne _, fun k => ?_⟩
    rw [State.completed, State.getV_setV_self, BitVec.getLsbD_xor]

/-- Settles O42: the result, then the carry. -/
theorem addWritesSumThenCarry : Obligations.AddWritesSumThenCarry := by
  intro s x y hx hy
  refine ⟨decodeWord_encode (.addReg x y), _, exec_completes (i := .addReg x y) (canRead_two hx hy) rfl, fun hf => ?_, ?_⟩
  · rw [State.completed, s.getV_writeAlu_result x _ hf, toNat_aluAdd]
  · rw [State.completed, State.getV_writeAlu_flag, flag_aluAdd]

/-- Settles O43: the result, then the borrow; SUBN is SUB with its operands swapped. -/
theorem subtractWritesDifferenceThenBorrow : Obligations.SubtractWritesDifferenceThenBorrow := by
  intro s x y hx hy
  refine ⟨⟨decodeWord_encode (.subReg x y), _, exec_completes (i := .subReg x y) (canRead_two hx hy) rfl, fun hf => ?_, ?_⟩,
    decodeWord_encode (.subnReg x y), _, exec_completes (i := .subnReg x y) (canRead_two hx hy) rfl, fun hf => ?_, ?_⟩
  · rw [State.completed, s.getV_writeAlu_result x _ hf, toNat_aluSub]
  · rw [State.completed, State.getV_writeAlu_flag, flag_aluSub]
  · rw [State.completed, s.getV_writeAlu_result x _ hf, toNat_aluSub]
  · rw [State.completed, State.getV_writeAlu_flag, flag_aluSub]

theorem shiftOperand_eq (cfg : Config) (x y : RegIdx) : shiftOperand cfg x y = if cfg.shiftSource = .vx then x else y := by
  unfold shiftOperand
  split <;> simp_all

/-- Settles O44: the register `ShiftSource` names is the one that is read. -/
theorem shiftsLeaveTheLostBitInVF : Obligations.ShiftsLeaveTheLostBitInVF := by
  intro s x y src hsrc hr
  obtain rfl : shiftOperand s.cfg x y = src := (shiftOperand_eq s.cfg x y).trans hsrc.symm
  refine ⟨⟨_, exec_completes (i := .shr x y) (canRead_one hr) rfl, fun hf => ?_, ?_⟩,
    _, exec_completes (i := .shl x y) (canRead_one hr) rfl, fun hf => ?_, ?_⟩
  · rw [State.completed, s.getV_writeAlu_result x _ hf, toNat_aluShr]
  · rw [State.completed, State.getV_writeAlu_flag, flag_aluShr]
  · rw [State.completed, s.getV_writeAlu_result x _ hf, toNat_aluShl]
  · rw [State.completed, State.getV_writeAlu_flag, flag_aluShl]

/-- Settles O45: a lined-up byte is consumed, else the counter of free values advances. -/
theorem randomIsAMaskedDraw : Obligations.RandomIsAMaskedDraw := by
  refine fun s x nn => ⟨fun b rest h => ?_, fun h => ?_⟩
  · refine ⟨_, exec_completes (i := .rnd x nn) canRead_none rfl, ?_, ?_, ?_⟩ <;>
      simp [State.completed, State.nextDraw8, State.afterDraw8, h]
  · refine ⟨_, exec_completes (i := .rnd x nn) canRead_none rfl, ?_, ?_, ?_⟩
    · rw [State.completed, State.getV_setV_self, BitVec.and_assoc, BitVec.and_not_self]
      exact BitVec.and_zero
    all_goals simp [State.completed, State.afterDraw8, h]

end Sys2Proof.Machine
end

section
/-! What each instruction does when it can read its registers: index and memory, display, keys and timers (43_index_and_memory.md; 44_display.md;
45_timers_and_keys.md). -/

namespace Sys2Proof.Machine

/-! ### The index register -/

theorem canRead_index {s : State} (hI : s.canReadIndex = true) : ∀ q ∈ [(16 : RegName)], s.canRead q = true :=
  List.forall_mem_singleton.mpr (s.canRead_sixteen.trans hI)

theorem canRead_V_and_index {s : State} {x : RegIdx} (hx : s.canReadV x = true) (hI : s.canReadIndex = true) :
    ∀ q ∈ [x.castSucc, 16], s.canRead q = true :=
  List.forall_mem_cons.mpr ⟨(s.canRead_castSucc x).trans hx, canRead_index hI⟩

theorem canRead_addI {s : State} {x : RegIdx} (hI : s.canReadIndex = true)
    (hx : s.cfg.addIndexOperand = .vx → s.canReadV x = true) : ∀ q ∈ (Instr.addI x).reads s.cfg, s.canRead q = true := by
  simp only [Instr.reads]
  split
  · exact canRead_index hI
  · exact canRead_V_and_index (hx ‹_›) hI

/-- The sum of FX1E in each of its two readings (43_index_and_memory.md R172). -/
theorem State.indexSum_eq (s : State) (x : RegIdx) : s.indexSum x =
    s.index.toNat + if s.cfg.addIndexOperand = .imm12 then x.val * 0x100 + 0x1E else (s.getV x).toNat := by
  unfold State.indexSum State.indexAddend
  cases s.cfg.addIndexOperand with
  | imm12 => exact congrArg _ (toNat_addIndexImmediate x)
  | vx => exact congrArg _ (toNat_zextByte _)

/-- Settles O46: the sum is exact, so that the fault and the flag compare it itself. -/
theorem addToIndexDetectsOverflow : Obligations.AddToIndexDetectsOverflow := by
  intro s x sum hI hx hsum
  obtain rfl : s.indexSum x = sum := (s.indexSum_eq x).trans hsum.symm
  refine ⟨fun fits => ?_, fun beyond => exec_raises (i := .addI x) (canRead_addI hI hx) (if_pos beyond)⟩
  refine ⟨_, exec_completes (i := .addI x) (canRead_addI hI hx) (if_neg (Nat.not_lt.mpr fits)), ?_, ?_⟩
  · exact (BitVec.toNat_ofNat ..).trans (Nat.mod_eq_of_lt (by omega))
  · rw [State.completed, State.getV_setV_self]
    simp [indexOverflowFlag]

/-- Settles O47: the last glyph ends below 0x200, so its address does not wrap. -/
theorem fontAddressOfADigit : Obligations.FontAddressOfADigit := by
  refine fun s x hx => ⟨fun digit => ?_, fun beyond => ?_⟩
  · refine ⟨_, exec_completes (i := .ldF x) (canRead_one hx) rfl, ?_⟩
    have base := Config.fontBaseAddr_le s.cfg
    rw [State.completed, if_pos digit]
    exact (BitVec.toNat_ofNat ..).trans (Nat.mod_eq_of_lt (by omega))
  · refine ⟨_, exec_completes (i := .ldF x) (canRead_one hx) rfl, ?_⟩
    rw [State.completed, if_neg (by omega)]
    rfl

/-! ### Memory transfer -/

/-- The range check of an access whose last byte is at `I + k` (43_index_and_memory.md R180). -/
theorem State.outOfRange_of_fits {s : State} {k : Nat} (h : s.index.toNat + k ≤ 0xFFF) : s.outOfRange k = none :=
  if_neg (Nat.not_lt.mpr h)

theorem State.outOfRange_of_beyond {s : State} {k : Nat} (h : 0xFFF < s.index.toNat + k) :
    s.outOfRange k = some (.memoryOutOfRange s.index) := if_pos h

/-- The `k`-th byte written from `I` reads back at `I + k`. -/
theorem State.readByte_writeBytes_get {s : State} (hm : Memory.wf s.cfg s.mem) {a : Nat} {bs : List Byte}
    (fits : a + bs.length ≤ memSize) {k : Nat} {b : Byte} (hk : bs[k]? = some b) :
    (s.writeBytes a bs).readByte (a + k) = b := by
  obtain ⟨lt, e⟩ := List.getElem?_eq_some_iff.mp hk
  rw [State.readByte_writeBytes hm fits, dif_pos (by omega), ← e]
  simp only [Nat.add_sub_cancel_left]

/-- Advancing `I` past an access that fits memory does not wrap. -/
theorem toNat_advance {i : Word} {x : RegIdx} (fits : i.toNat + x.val ≤ 0xFFF) :
    (i + BitVec.ofNat 16 (x.val + 1)).toNat = i.toNat + x.val + 1 := by
  rw [BitVec.toNat_add, BitVec.toNat_ofNat]
  omega

/-- Settles O48: the digits are written at `I`, `I + 1` and `I + 2`, and read back. -/
theorem bcdStoresThreeDigits : Obligations.BcdStoresThreeDigits := by
  intro s x hx hI
  refine ⟨fun hm fits => ?_, fun beyond => ?_⟩
  · refine ⟨_, exec_completes (i := .ldB x) (canRead_V_and_index hx hI) (State.outOfRange_of_fits fits), ?_, ?_, ?_, ?_⟩
    · rw [State.completed, State.writeBytes_only_mem]
    all_goals
      have v := (s.getV x).isLt
      have room : s.index.toNat + (bcdDigits (s.getV x)).length ≤ memSize := Nat.succ_le_succ fits
      have digit := fun k b => State.readByte_writeBytes_get (k := k) (b := b) hm room
    · exact (congrArg BitVec.toNat (digit 0 _ rfl)).trans (by rw [BitVec.toNat_ofNat]; omega)
    · exact (congrArg BitVec.toNat (digit 1 _ rfl)).trans (by rw [BitVec.toNat_ofNat]; omega)
    · exact (congrArg BitVec.toNat (digit 2 _ rfl)).trans (by rw [BitVec.toNat_ofNat]; omega)
  · exact exec_raises (i := .ldB x) (canRead_V_and_index hx hI) (State.outOfRange_of_beyond beyond)

/-- Settles O49: `V[0]` to `V[X]` are written as one run from `I`, and `V[r]` is its `r`-th byte. -/
theorem dumpStoresTheRegisters : Obligations.DumpStoresTheRegisters := by
  intro s x hI
  refine ⟨fun hm readable fits => ?_, fun beyond => ?_⟩
  · have reads : ∀ q ∈ (Instr.dump x).reads s.cfg, s.canRead q = true := by
      refine List.forall_mem_cons.mpr ⟨s.canRead_sixteen.trans hI, List.forall_mem_map.mpr fun r hr => ?_⟩
      exact (s.canRead_castSucc r).trans (readable r ((mem_regsUpTo x r).mp hr))
    refine ⟨_, exec_completes reads (State.outOfRange_of_fits fits), toNat_advance fits, fun r hr => ?_⟩
    have room : s.index.toNat + ((regsUpTo x).map s.getV).length ≤ memSize := by
      rw [List.length_map, length_regsUpTo, memSize]; omega
    exact State.readByte_writeBytes_get hm room (by rw [List.getElem?_map, regsUpTo_get x r hr]; rfl)
  · have fault : s.faultOf (.dump x) = some (.memoryOutOfRange s.index) := by
      have rule : s.ruleFault (.dump x) = _ := State.outOfRange_of_beyond beyond
      rw [State.faultOf, State.unreadable_eq_none (canRead_index hI), rule]
      rfl
    exact exec_of_fault fault

/-- Settles O50: each register is loaded from its own offset. -/
theorem loadReadsTheRegisters : Obligations.LoadReadsTheRegisters := by
  refine fun s x hI => ⟨fun fits => ?_, fun beyond => ?_⟩
  · refine ⟨_, exec_completes (i := .load x) (canRead_index hI) (State.outOfRange_of_fits fits), toNat_advance fits,
      fun r hr => ?_⟩
    exact (State.getV_loadRegs ..).trans (if_pos ((mem_regsUpTo x r).mpr hr))
  · exact exec_raises (i := .load x) (canRead_index hI) (State.outOfRange_of_beyond beyond)

/-! ### Display -/

/-- Settles O51: group 0 looks at the low byte alone, and CLS writes `Display.blank`. -/
theorem clearMakesEveryCellFalse : Obligations.ClearMakesEveryCellFalse := by
  refine ⟨fun w hg hn => ?_, fun s => ⟨_, exec_completes (i := .cls) canRead_none rfl, Display.get_blank, rfl, rfl⟩⟩
  rw [(primaryDispatch w).1 hg, if_pos hn]

section
variable {s : State} {x y : RegIdx} {n : Nibble}

theorem canRead_drw (hx : s.canReadV x = true) (hy : s.canReadV y = true) (hI : n ≠ 0 → s.canReadIndex = true) :
    ∀ q ∈ (Instr.drw x y n).reads s.cfg, s.canRead q = true := by
  refine List.forall_mem_cons.mpr ⟨(s.canRead_castSucc x).trans hx, List.forall_mem_cons.mpr ⟨(s.canRead_castSucc y).trans hy, ?_⟩⟩
  split
  · exact canRead_none
  · rename_i hn
    exact canRead_index (hI fun e => hn (by rw [e]; rfl))

/-- VF after a draw is 1 or 0: 1 iff a 1 bit of the sprite landed on a set cell (44_display.md R191). -/
theorem completed_drw_flag (s : State) (x y : RegIdx) (n : Nibble) :
    ((s.completed (.drw x y n)).getV VF = 0 ∨ (s.completed (.drw x y n)).getV VF = 1) ∧
    ((s.completed (.drw x y n)).getV VF = 1 ↔ ∃ col row, col < 64 ∧ row < 32 ∧ Display.get s.disp col row = true ∧
      spriteBit s (s.getV x).toNat (s.getV y).toNat n.toNat col row = true) := by
  rw [← State.collision_blitRows, State.completed, State.finishDraw, State.getV_setV_self]
  generalize (s.blitRows s.index _ _ _ _).collision = hit
  revert hit
  decide

end

/-- Settles O52: what the blit makes of each cell, and when it collides. -/
theorem drawXorsTheClippedSprite : Obligations.DrawXorsTheClippedSprite := by
  intro s x y n hx hy hI
  obtain ⟨bit, hit⟩ := completed_drw_flag s x y n
  exact ⟨_, exec_completes (canRead_drw hx hy hI) rfl, rfl, rfl, fun _ _ => completed_drw_disp s x y n, bit, hit⟩

/-- A draw keeps its own operands, `I` and memory, so the next draw has the same sprite (44_display.md R193). -/
theorem spriteBit_completed_drw (s : State) {x y : RegIdx} (n : Nibble) (hx : x ≠ VF) (hy : y ≠ VF) (col row : Nat) :
    spriteBit (s.completed (.drw x y n)) ((s.completed (.drw x y n)).getV x).toNat
      ((s.completed (.drw x y n)).getV y).toNat n.toNat col row =
    spriteBit s (s.getV x).toNat (s.getV y).toNat n.toNat col row := by
  have vx : (s.completed (.drw x y n)).getV x = s.getV x := State.getV_setV_ne _ _ hx
  have vy : (s.completed (.drw x y n)).getV y = s.getV y := State.getV_setV_ne _ _ hy
  rw [vx, vy]
  rfl

theorem completed_drw_twice_disp (s : State) {x y : RegIdx} (n : Nibble) (hx : x ≠ VF) (hy : y ≠ VF) :
    ((s.completed (.drw x y n)).completed (.drw x y n)).disp = s.disp := by
  refine Display.ext_get fun col row => ?_
  by_cases inside : col < 64 ∧ row < 32
  · rw [completed_drw_disp _ x y n inside.1 inside.2, completed_drw_disp s x y n inside.1 inside.2,
      spriteBit_completed_drw s n hx hy, Bool.xor_assoc, Bool.xor_self, Bool.xor_false]
  · rw [Display.get_outside _ inside, Display.get_outside _ inside]

/-- A cell under a 1 bit of the sprite is set after the draw iff it was clear before it. -/
theorem get_completed_drw_of_bit {s : State} {x y : RegIdx} {n : Nibble} {col row : Nat} (hc : col < 64) (hr : row < 32)
    (bit : spriteBit s (s.getV x).toNat (s.getV y).toNat n.toNat col row = true) :
    Display.get (s.completed (.drw x y n)).disp col row = !Display.get s.disp col row := by
  rw [completed_drw_disp s x y n hc hr, bit, Bool.xor_true]

/-- Settles O53: XOR with the same sprite undoes the first draw, and the second collides where the first set a cell. -/
theorem drawingTwiceRestoresTheBuffer : Obligations.DrawingTwiceRestoresTheBuffer := by
  intro s x y n hxF hyF hx hy hI
  have again : ∀ q ∈ (Instr.drw x y n).reads (s.completed (.drw x y n)).cfg, (s.completed (.drw x y n)).canRead q = true :=
    canRead_drw (State.canReadV_setV _ _ _ _ hx) (State.canReadV_setV _ _ _ _ hy) hI
  obtain ⟨flag, hit⟩ := completed_drw_flag (s.completed (.drw x y n)) x y n
  refine ⟨_, _, exec_completes (canRead_drw hx hy hI) rfl, exec_completes again rfl, completed_drw_twice_disp s n hxF hyF,
    flag, hit.trans ?_⟩
  simp only [spriteBit_completed_drw s n hxF hyF]
  refine exists_congr fun col => exists_congr fun row => and_congr_right fun hc => and_congr_right fun hr =>
    and_congr_left fun bit => ?_
  rw [get_completed_drw_of_bit hc hr bit, Bool.not_eq_true']

/-! ### Keys and timers -/

/-- The key check finds no fault in a key index of one digit (45_timers_and_keys.md R200). -/
theorem State.badKey_of_digit {s : State} {x : RegIdx} (h : (s.getV x).toNat ≤ 0xF) : s.badKey x = none :=
  if_neg (Nat.not_lt.mpr h)

theorem State.badKey_of_beyond {s : State} {x : RegIdx} (h : 0xF < (s.getV x).toNat) :
    s.badKey x = some (.keyIndexOutOfRange (s.getV x)) := if_pos h

/-- Settles O54: the latch that is read is the one the register names. -/
theorem keySkipsReadOneLatch : Obligations.KeySkipsReadOneLatch := by
  intro s x hx
  refine ⟨fun k hk => ?_, fun beyond => ?_⟩
  · have digit : s.badKey x = none := State.badKey_of_digit (by omega)
    rw [exec_completes (i := .skp x) (canRead_one hx) digit, exec_completes (i := .sknp x) (canRead_one hx) digit,
      State.completed, State.completed, hk, State.keyDown_fin]
    exact ⟨rfl, rfl⟩
  · have fault := State.badKey_of_beyond beyond
    exact ⟨exec_raises (i := .skp x) (canRead_one hx) fault, exec_raises (i := .sknp x) (canRead_one hx) fault⟩

theorem toNat_keyByte (k : Fin 16) : (keyByte k).toNat = k.val := by revert k; decide

/-- Settles O55: the instruction branches on the lowest pressed key. -/
theorem keyWaitResolvesOrWaits : Obligations.KeyWaitResolvesOrWaits := by
  intro s x
  refine ⟨fun k hk below => ?_, fun none => ?_⟩
  · refine ⟨_, exec_completes (i := .ldVxK x) canRead_none rfl, ?_⟩
    rw [State.completed, State.lowestPressed_of_least hk below]
    exact ⟨(congrArg BitVec.toNat (s.getV_setV_self x _)).trans (toNat_keyByte k), rfl, rfl⟩
  · rw [exec_completes (i := .ldVxK x) canRead_none rfl, State.completed, s.lowestPressed_eq_none.mpr none]

/-- Settles O56: three moves between a register and a counter; a nonzero sound count starts the gate. -/
theorem timerInstructionsMoveTheCounters : Obligations.TimerInstructionsMoveTheCounters := by
  intro s x
  refine ⟨⟨_, exec_completes (i := .ldVxDt x) canRead_none rfl, s.getV_setV_self x s.dt⟩, fun hx => ⟨?_, ?_⟩⟩
  · exact ⟨_, exec_completes (i := .ldDtVx x) (canRead_one hx) rfl, rfl⟩
  · refine ⟨_, exec_completes (i := .ldStVx x) (canRead_one hx) rfl, ?_⟩
    rw [State.completed]
    split
    · rename_i zero; exact ⟨rfl, fun h => absurd zero h, fun _ => ⟨rfl, rfl⟩⟩
    · rename_i nonzero; exact ⟨rfl, fun _ => ⟨rfl, rfl⟩, fun h => absurd h nonzero⟩

end Sys2Proof.Machine
end
